-- ==== Sys2Proof/Word.lean ====
section
/-! DEFINITION. The word types of the machine (spec/00_scope.md R6, R11): every value is unsigned (R9). -/

namespace Sys2Proof

/-- A data byte: a general register, a timer, a memory cell (R6: `V_BITS`, `TIMER_BITS`). -/
abbrev Byte := BitVec 8

/-- A 12-bit memory address; the program counter and the stack entries hold one (R6: `ADDR_BITS`, `PC_BITS`). -/
abbrev Addr := BitVec 12

/-- A 16-bit word: an instruction word, or the index register `I` (R6: `I_BITS`, R80). -/
abbrev Word := BitVec 16

/-- A 4-bit field of an instruction word: a register number, a key index, a sprite height, a category (R81). -/
abbrev Nibble := BitVec 4

/-- A framebuffer column, 0 to 63 (R190); its addition wraps modulo 64. -/
abbrev Column := BitVec 6

/-- A framebuffer row number, 0 to 31 (R190); its addition wraps modulo 32. -/
abbrev RowNumber := BitVec 5

/-- The register number of VF, the flag register (R22). -/
abbrev vf : Nibble := 0xF#4

end Sys2Proof
end

