-- ==== Sys2Proof/Config.lean ====
section
/-! DEFINITION. What an implementation of the core fixes (spec/00_scope.md R7) and the one free value of the machine.

The parameters are plain data in one structure, so that a core built with any of them is a state of the model: `State.cfg`
holds it and no operation changes it (notes/assumptions/1.md). DESIGN CHOICE (log 1): the spec says the parameters are
"fixed when the core is built and are not state" (R35). -/

namespace Sys2Proof

/-- `SHIFT_SOURCE` (R7, R150, R152): which register 8XY6 and 8XYE shift. PRESUMED for `vy` (log 3). -/
inductive ShiftSource where
  | vx
  | vy
  deriving DecidableEq, Repr

/-- `JUMP_OFFSET` (R7, R123): which register BNNN adds. PRESUMED for `vx` (log 3). -/
inductive JumpOffset where
  | v0
  | vx
  deriving DecidableEq, Repr

/-- `LOADSTORE_I_ADVANCE` (R7, R175, R176): whether FX55 and FX65 move `I`. PRESUMED for `xPlus1` (log 3). -/
inductive LoadStoreAdvance where
  | unchanged
  | xPlus1
  deriving DecidableEq, Repr

/-- `I_WRAP` (R7, R172): the modulus of FX1E. -/
inductive IndexWrap where
  | mod65536
  | mod4096
  deriving DecidableEq, Repr

/-- `GLYPHS` (R7, R55): 16 glyphs of 5 bytes each, by digit and then by row. -/
abbrev Glyphs := Vector (Vector Byte 5) 16

/-- A set of pressed keys: bit `k` is key `k` (R33). -/
abbrev KeySet := BitVec 16

/-- One entry of the table of `KEY_SELECT` (R7, R213): when exactly `pressed` is down, FX0A reports `key`. -/
structure KeyChoice where
  pressed : KeySet
  key     : Nibble
  deriving DecidableEq, Repr

/-- The parameters of R7 that are fixed when the core is built. `KEY_SELECT` is "a function from a non-empty set of
pressed keys to one of its members": it is held as its exceptions to the default "lowest index", so every such function is
some value of `keyChoices` (log 6). -/
structure Config where
  shiftSource      : ShiftSource
  jumpOffset       : JumpOffset
  loadStoreAdvance : LoadStoreAdvance
  indexWrap        : IndexWrap
  glyphs           : Glyphs
  keyChoices       : List KeyChoice
  /-- the model's own: the number of the random source this core draws from, another one for every core of a host
  (spec/46_host_operations.md R238, log 5) -/
  randomSource     : Nat
  deriving DecidableEq, Repr

/-- The default of `GLYPHS`: the table of R55. PRESUMED (log 2): the spec marks the 80 bytes as general knowledge. -/
def Glyphs.default : Glyphs :=
  #v[#v[0xF0, 0x90, 0x90, 0x90, 0xF0], #v[0x20, 0x60, 0x20, 0x20, 0x70],
     #v[0xF0, 0x10, 0xF0, 0x80, 0xF0], #v[0xF0, 0x10, 0xF0, 0x10, 0xF0],
     #v[0x90, 0x90, 0xF0, 0x10, 0x10], #v[0xF0, 0x80, 0xF0, 0x10, 0xF0],
     #v[0xF0, 0x80, 0xF0, 0x90, 0xF0], #v[0xF0, 0x10, 0x20, 0x40, 0x40],
     #v[0xF0, 0x90, 0xF0, 0x90, 0xF0], #v[0xF0, 0x90, 0xF0, 0x10, 0xF0],
     #v[0xF0, 0x90, 0xF0, 0x90, 0x90], #v[0xE0, 0x90, 0xE0, 0x90, 0xE0],
     #v[0xF0, 0x80, 0x80, 0x80, 0xF0], #v[0xE0, 0x90, 0x90, 0x90, 0xE0],
     #v[0xF0, 0x80, 0xF0, 0x80, 0xF0], #v[0xF0, 0x80, 0xF0, 0x80, 0x80]]

/-- The defaults of R7, "the behaviour this spec specifies". -/
def Config.default : Config where
  shiftSource := .vx
  jumpOffset := .v0
  loadStoreAdvance := .unchanged
  indexWrap := .mod65536
  glyphs := Glyphs.default
  keyChoices := []
  randomSource := 0

/-- The random byte of the draw number `draw` from the random source number `source` (R7 `rand`, R154): a FREE VALUE,
constrained by nothing, so the bytes of two sources have nothing to do with each other (R238). DESIGN CHOICE (log 5): the
spec makes it an input of `Step`; here it is an opaque constant applied to `Config.randomSource` and `State.draws`. -/
opaque Config.freeByte : (source draw : Nat) → Byte

end Sys2Proof
end

