-- ==== Sys2Proof/Syntax.lean ====
section
/-! DEFINITION. The instruction set: one constructor per row of spec/opcode_table.json (spec/30_encoding.md R84), named
`op` and the row's pattern, with the operand fields of R81 in the order they stand in the word. -/

namespace Sys2Proof

/-- The 34 instructions of R84. The field widths are those of R81, so every operand value is one the encoding admits. -/
inductive Instr where
  /-- 00E0 `CLS` (R191) -/
  | op00E0
  /-- 00EE `RET` (R120) -/
  | op00EE
  /-- 1NNN `JP nnn` (R121) -/
  | op1NNN (nnn : Addr)
  /-- 2NNN `CALL nnn` (R122) -/
  | op2NNN (nnn : Addr)
  /-- 3XNN `SE Vx, nn` (R124) -/
  | op3XNN (x : Nibble) (nn : Byte)
  /-- 4XNN `SNE Vx, nn` (R125) -/
  | op4XNN (x : Nibble) (nn : Byte)
  /-- 5XY0 `SE Vx, Vy` (R126) -/
  | op5XY0 (x y : Nibble)
  /-- 6XNN `LD Vx, nn` (R141) -/
  | op6XNN (x : Nibble) (nn : Byte)
  /-- 7XNN `ADD Vx, nn` (R142) -/
  | op7XNN (x : Nibble) (nn : Byte)
  /-- 8XY0 `LD Vx, Vy` (R143) -/
  | op8XY0 (x y : Nibble)
  /-- 8XY1 `OR Vx, Vy` (R144) -/
  | op8XY1 (x y : Nibble)
  /-- 8XY2 `AND Vx, Vy` (R145) -/
  | op8XY2 (x y : Nibble)
  /-- 8XY3 `XOR Vx, Vy` (R146) -/
  | op8XY3 (x y : Nibble)
  /-- 8XY4 `ADD Vx, Vy` (R147) -/
  | op8XY4 (x y : Nibble)
  /-- 8XY5 `SUB Vx, Vy` (R148) -/
  | op8XY5 (x y : Nibble)
  /-- 8XY6 `SHR Vx, Vy` (R150) -/
  | op8XY6 (x y : Nibble)
  /-- 8XY7 `SUBN Vx, Vy` (R151) -/
  | op8XY7 (x y : Nibble)
  /-- 8XYE `SHL Vx, Vy` (R152) -/
  | op8XYE (x y : Nibble)
  /-- 9XY0 `SNE Vx, Vy` (R127) -/
  | op9XY0 (x y : Nibble)
  /-- ANNN `LD I, nnn` (R173) -/
  | opANNN (nnn : Addr)
  /-- BNNN `JP V0, nnn` (R123) -/
  | opBNNN (nnn : Addr)
  /-- CXNN `RND Vx, nn` (R154) -/
  | opCXNN (x : Nibble) (nn : Byte)
  /-- DXYN `DRW Vx, Vy, n` (R192) -/
  | opDXYN (x y n : Nibble)
  /-- EX9E `SKP Vx` (R210) -/
  | opEX9E (x : Nibble)
  /-- EXA1 `SKNP Vx` (R211) -/
  | opEXA1 (x : Nibble)
  /-- FX07 `LD Vx, DT` (R214) -/
  | opFX07 (x : Nibble)
  /-- FX0A `LD Vx, K` (R213) -/
  | opFX0A (x : Nibble)
  /-- FX15 `LD DT, Vx` (R215) -/
  | opFX15 (x : Nibble)
  /-- FX18 `LD ST, Vx` (R216) -/
  | opFX18 (x : Nibble)
  /-- FX1E `ADD I, Vx` (R172) -/
  | opFX1E (x : Nibble)
  /-- FX29 `LD F, Vx` (R174) -/
  | opFX29 (x : Nibble)
  /-- FX33 `LD B, Vx` (R177) -/
  | opFX33 (x : Nibble)
  /-- FX55 `LD [I], Vx` (R175) -/
  | opFX55 (x : Nibble)
  /-- FX65 `LD Vx, [I]` (R176) -/
  | opFX65 (x : Nibble)
  deriving DecidableEq, Repr

end Sys2Proof
end

