-- ==== Sys2Proof/WellFormed.lean ====
section
/-! DEFINITION. The checks on what the outside supplies: an instruction term, a program image, the parameters.

An instruction's operands are held at the exact widths of spec/30_encoding.md R81, and no row of R84 restricts them further
(R86: no ignored or should-be-zero bits), so every term of `Instr` is well formed. The checks that can fail are those on an
image's length (spec/20_memory.md R57) and on the `KEY_SELECT` table (spec/00_scope.md R7). -/

namespace Sys2Proof

/-- Every operand value of every constructor is one the encoding admits (R81, R83, R86): nothing is left to check. -/
def Instr.wellFormed : Instr → Bool
  | .op00E0 | .op00EE => true
  | .op1NNN _ | .op2NNN _ | .opANNN _ | .opBNNN _ => true
  | .op3XNN _ _ | .op4XNN _ _ | .op6XNN _ _ | .op7XNN _ _ | .opCXNN _ _ => true
  | .op5XY0 _ _ | .op8XY0 _ _ | .op8XY1 _ _ | .op8XY2 _ _ | .op8XY3 _ _ | .op8XY4 _ _ | .op8XY5 _ _ | .op8XY6 _ _
  | .op8XY7 _ _ | .op8XYE _ _ | .op9XY0 _ _ => true
  | .opDXYN _ _ _ => true
  | .opEX9E _ | .opEXA1 _ | .opFX07 _ | .opFX0A _ | .opFX15 _ | .opFX18 _ | .opFX1E _ | .opFX29 _ | .opFX33 _ | .opFX55 _
  | .opFX65 _ => true

/-- `PROG_MAX` (R6): the largest program image, 3584 bytes. -/
def progMax : Nat := 0xE00

/-- A program image fits the program area (R56, R57). -/
def imageWellFormed (bytes : List Byte) : Bool := decide (bytes.length ≤ progMax)

/-- An entry of the `KEY_SELECT` table names a member of its set (R7: "to one of its members"). -/
def KeyChoice.wellFormed (c : KeyChoice) : Bool := c.pressed.getLsbD c.key.toNat

/-- The parameters are ones R7 allows. -/
def Config.wellFormed (cfg : Config) : Bool := cfg.keyChoices.all KeyChoice.wellFormed

end Sys2Proof
end

