-- ==== Sys2Proof/Decode.lean ====
section
/-! DEFINITION. The instruction encoding (spec/30_encoding.md): fields (R81), the decoder (R85), the encoder and the
mask/match table (R84). -/

namespace Sys2Proof

/-! ## Fields of a word (R81) -/

/-- `C = op[15:12]` -/
def fieldC (op : Word) : Nibble := op.extractLsb' 12 4
/-- `X = op[11:8]` -/
def fieldX (op : Word) : Nibble := op.extractLsb' 8 4
/-- `Y = op[7:4]` -/
def fieldY (op : Word) : Nibble := op.extractLsb' 4 4
/-- `N = op[3:0]` -/
def fieldN (op : Word) : Nibble := op.extractLsb' 0 4
/-- `NN = op[7:0]` -/
def fieldNN (op : Word) : Byte := op.extractLsb' 0 8
/-- `NNN = op[11:0]` -/
def fieldNNN (op : Word) : Addr := op.extractLsb' 0 12

/-- Why bytes decode to no instruction. -/
inductive DecodeError where
  /-- the word matches no row of R84: `Decode(op) = Unknown` (R85, R88) -/
  | unknownInstruction
  /-- fewer than two bytes: not a case of the machine, whose fetch always finds two (R52, R101) -/
  | truncated
  deriving DecidableEq, Repr

/-! ## The decoder (R85) -/

/-- Category 0: the two fixed words (R85). -/
def decodeCategory0 (op : Word) : Except DecodeError Instr :=
  if op = 0x00E0#16 then .ok .op00E0
  else if op = 0x00EE#16 then .ok .op00EE
  else .error .unknownInstruction

/-- Category 8: the register-to-register operations, selected by `N` (R85). -/
def decodeCategory8 (op : Word) : Except DecodeError Instr :=
  match fieldN op with
  | 0x0#4 => .ok (.op8XY0 (fieldX op) (fieldY op))
  | 0x1#4 => .ok (.op8XY1 (fieldX op) (fieldY op))
  | 0x2#4 => .ok (.op8XY2 (fieldX op) (fieldY op))
  | 0x3#4 => .ok (.op8XY3 (fieldX op) (fieldY op))
  | 0x4#4 => .ok (.op8XY4 (fieldX op) (fieldY op))
  | 0x5#4 => .ok (.op8XY5 (fieldX op) (fieldY op))
  | 0x6#4 => .ok (.op8XY6 (fieldX op) (fieldY op))
  | 0x7#4 => .ok (.op8XY7 (fieldX op) (fieldY op))
  | 0xE#4 => .ok (.op8XYE (fieldX op) (fieldY op))
  | _     => .error .unknownInstruction

/-- Category E: the key skips, selected by `NN` (R85). -/
def decodeCategoryE (op : Word) : Except DecodeError Instr :=
  match fieldNN op with
  | 0x9E#8 => .ok (.opEX9E (fieldX op))
  | 0xA1#8 => .ok (.opEXA1 (fieldX op))
  | _      => .error .unknownInstruction

/-- Category F: timers, wait, index and memory transfer, selected by `NN` (R85). -/
def decodeCategoryF (op : Word) : Except DecodeError Instr :=
  match fieldNN op with
  | 0x07#8 => .ok (.opFX07 (fieldX op))
  | 0x0A#8 => .ok (.opFX0A (fieldX op))
  | 0x15#8 => .ok (.opFX15 (fieldX op))
  | 0x18#8 => .ok (.opFX18 (fieldX op))
  | 0x1E#8 => .ok (.opFX1E (fieldX op))
  | 0x29#8 => .ok (.opFX29 (fieldX op))
  | 0x33#8 => .ok (.opFX33 (fieldX op))
  | 0x55#8 => .ok (.opFX55 (fieldX op))
  | 0x65#8 => .ok (.opFX65 (fieldX op))
  | _      => .error .unknownInstruction

/-- `Decode(op)` of R85, total on all 65536 words; the sixteen categories are written out, so the last arm is never taken. -/
def decodeWord (op : Word) : Except DecodeError Instr :=
  match fieldC op with
  | 0x0#4 => decodeCategory0 op
  | 0x1#4 => .ok (.op1NNN (fieldNNN op))
  | 0x2#4 => .ok (.op2NNN (fieldNNN op))
  | 0x3#4 => .ok (.op3XNN (fieldX op) (fieldNN op))
  | 0x4#4 => .ok (.op4XNN (fieldX op) (fieldNN op))
  | 0x5#4 => if fieldN op = 0 then .ok (.op5XY0 (fieldX op) (fieldY op)) else .error .unknownInstruction
  | 0x6#4 => .ok (.op6XNN (fieldX op) (fieldNN op))
  | 0x7#4 => .ok (.op7XNN (fieldX op) (fieldNN op))
  | 0x8#4 => decodeCategory8 op
  | 0x9#4 => if fieldN op = 0 then .ok (.op9XY0 (fieldX op) (fieldY op)) else .error .unknownInstruction
  | 0xA#4 => .ok (.opANNN (fieldNNN op))
  | 0xB#4 => .ok (.opBNNN (fieldNNN op))
  | 0xC#4 => .ok (.opCXNN (fieldX op) (fieldNN op))
  | 0xD#4 => .ok (.opDXYN (fieldX op) (fieldY op) (fieldN op))
  | 0xE#4 => decodeCategoryE op
  | 0xF#4 => decodeCategoryF op
  | _     => .error .unknownInstruction

/-- The word two bytes form: the byte at the lower address is bits 15 to 8 (spec/20_memory.md R52, R53). -/
def wordOfBytes (first second : Byte) : Word := first ++ second

/-- Decoding from a byte stream: one instruction and the bytes after it (R80: every instruction is two bytes). -/
def decode : List Byte → Except DecodeError (Instr × List Byte)
  | first :: second :: rest => (decodeWord (wordOfBytes first second)).map (·, rest)
  | [_] | [] => .error .truncated

/-! ## The encoder (R82, R84) -/

/-- The word of an instruction: its format of R82 with the fixed digits of R84. -/
def encode : Instr → Word
  | .op00E0 => 0x00E0#16
  | .op00EE => 0x00EE#16
  | .op1NNN nnn => 0x1#4 ++ nnn
  | .op2NNN nnn => 0x2#4 ++ nnn
  | .op3XNN x nn => 0x3#4 ++ x ++ nn
  | .op4XNN x nn => 0x4#4 ++ x ++ nn
  | .op5XY0 x y => 0x5#4 ++ x ++ y ++ 0x0#4
  | .op6XNN x nn => 0x6#4 ++ x ++ nn
  | .op7XNN x nn => 0x7#4 ++ x ++ nn
  | .op8XY0 x y => 0x8#4 ++ x ++ y ++ 0x0#4
  | .op8XY1 x y => 0x8#4 ++ x ++ y ++ 0x1#4
  | .op8XY2 x y => 0x8#4 ++ x ++ y ++ 0x2#4
  | .op8XY3 x y => 0x8#4 ++ x ++ y ++ 0x3#4
  | .op8XY4 x y => 0x8#4 ++ x ++ y ++ 0x4#4
  | .op8XY5 x y => 0x8#4 ++ x ++ y ++ 0x5#4
  | .op8XY6 x y => 0x8#4 ++ x ++ y ++ 0x6#4
  | .op8XY7 x y => 0x8#4 ++ x ++ y ++ 0x7#4
  | .op8XYE x y => 0x8#4 ++ x ++ y ++ 0xE#4
  | .op9XY0 x y => 0x9#4 ++ x ++ y ++ 0x0#4
  | .opANNN nnn => 0xA#4 ++ nnn
  | .opBNNN nnn => 0xB#4 ++ nnn
  | .opCXNN x nn => 0xC#4 ++ x ++ nn
  | .opDXYN x y n => 0xD#4 ++ x ++ y ++ n
  | .opEX9E x => 0xE#4 ++ x ++ 0x9E#8
  | .opEXA1 x => 0xE#4 ++ x ++ 0xA1#8
  | .opFX07 x => 0xF#4 ++ x ++ 0x07#8
  | .opFX0A x => 0xF#4 ++ x ++ 0x0A#8
  | .opFX15 x => 0xF#4 ++ x ++ 0x15#8
  | .opFX18 x => 0xF#4 ++ x ++ 0x18#8
  | .opFX1E x => 0xF#4 ++ x ++ 0x1E#8
  | .opFX29 x => 0xF#4 ++ x ++ 0x29#8
  | .opFX33 x => 0xF#4 ++ x ++ 0x33#8
  | .opFX55 x => 0xF#4 ++ x ++ 0x55#8
  | .opFX65 x => 0xF#4 ++ x ++ 0x65#8

/-- The two bytes of a word as memory holds them, lower address first (spec/20_memory.md R53). -/
def bytesOfWord (op : Word) : List Byte := [op.extractLsb' 8 8, op.extractLsb' 0 8]

/-! ## The mask and match columns of R84 -/

/-- The `mask` and `match` of a row of R84: "a word `op` is the instruction iff `op & mask = match`". -/
structure OpcodeRow where
  mask  : Word
  value : Word
  deriving DecidableEq, Repr

/-- The row of R84 an instruction belongs to. -/
def Instr.row : Instr → OpcodeRow
  | .op00E0 => ⟨0xFFFF, 0x00E0⟩
  | .op00EE => ⟨0xFFFF, 0x00EE⟩
  | .op1NNN _ => ⟨0xF000, 0x1000⟩
  | .op2NNN _ => ⟨0xF000, 0x2000⟩
  | .op3XNN _ _ => ⟨0xF000, 0x3000⟩
  | .op4XNN _ _ => ⟨0xF000, 0x4000⟩
  | .op5XY0 _ _ => ⟨0xF00F, 0x5000⟩
  | .op6XNN _ _ => ⟨0xF000, 0x6000⟩
  | .op7XNN _ _ => ⟨0xF000, 0x7000⟩
  | .op8XY0 _ _ => ⟨0xF00F, 0x8000⟩
  | .op8XY1 _ _ => ⟨0xF00F, 0x8001⟩
  | .op8XY2 _ _ => ⟨0xF00F, 0x8002⟩
  | .op8XY3 _ _ => ⟨0xF00F, 0x8003⟩
  | .op8XY4 _ _ => ⟨0xF00F, 0x8004⟩
  | .op8XY5 _ _ => ⟨0xF00F, 0x8005⟩
  | .op8XY6 _ _ => ⟨0xF00F, 0x8006⟩
  | .op8XY7 _ _ => ⟨0xF00F, 0x8007⟩
  | .op8XYE _ _ => ⟨0xF00F, 0x800E⟩
  | .op9XY0 _ _ => ⟨0xF00F, 0x9000⟩
  | .opANNN _ => ⟨0xF000, 0xA000⟩
  | .opBNNN _ => ⟨0xF000, 0xB000⟩
  | .opCXNN _ _ => ⟨0xF000, 0xC000⟩
  | .opDXYN _ _ _ => ⟨0xF000, 0xD000⟩
  | .opEX9E _ => ⟨0xF0FF, 0xE09E⟩
  | .opEXA1 _ => ⟨0xF0FF, 0xE0A1⟩
  | .opFX07 _ => ⟨0xF0FF, 0xF007⟩
  | .opFX0A _ => ⟨0xF0FF, 0xF00A⟩
  | .opFX15 _ => ⟨0xF0FF, 0xF015⟩
  | .opFX18 _ => ⟨0xF0FF, 0xF018⟩
  | .opFX1E _ => ⟨0xF0FF, 0xF01E⟩
  | .opFX29 _ => ⟨0xF0FF, 0xF029⟩
  | .opFX33 _ => ⟨0xF0FF, 0xF033⟩
  | .opFX55 _ => ⟨0xF0FF, 0xF055⟩
  | .opFX65 _ => ⟨0xF0FF, 0xF065⟩

/-- The rows of R84, in the spec's order. -/
def opcodeTable : List OpcodeRow :=
  [⟨0xFFFF, 0x00E0⟩, ⟨0xFFFF, 0x00EE⟩, ⟨0xF000, 0x1000⟩, ⟨0xF000, 0x2000⟩, ⟨0xF000, 0x3000⟩, ⟨0xF000, 0x4000⟩,
   ⟨0xF00F, 0x5000⟩, ⟨0xF000, 0x6000⟩, ⟨0xF000, 0x7000⟩, ⟨0xF00F, 0x8000⟩, ⟨0xF00F, 0x8001⟩, ⟨0xF00F, 0x8002⟩,
   ⟨0xF00F, 0x8003⟩, ⟨0xF00F, 0x8004⟩, ⟨0xF00F, 0x8005⟩, ⟨0xF00F, 0x8006⟩, ⟨0xF00F, 0x8007⟩, ⟨0xF00F, 0x800E⟩,
   ⟨0xF00F, 0x9000⟩, ⟨0xF000, 0xA000⟩, ⟨0xF000, 0xB000⟩, ⟨0xF000, 0xC000⟩, ⟨0xF000, 0xD000⟩, ⟨0xF0FF, 0xE09E⟩,
   ⟨0xF0FF, 0xE0A1⟩, ⟨0xF0FF, 0xF007⟩, ⟨0xF0FF, 0xF00A⟩, ⟨0xF0FF, 0xF015⟩, ⟨0xF0FF, 0xF018⟩, ⟨0xF0FF, 0xF01E⟩,
   ⟨0xF0FF, 0xF029⟩, ⟨0xF0FF, 0xF033⟩, ⟨0xF0FF, 0xF055⟩, ⟨0xF0FF, 0xF065⟩]

/-- A word matches a row of R84. -/
def OpcodeRow.accepts (r : OpcodeRow) (op : Word) : Bool := op &&& r.mask == r.value

/-! ## The host's reading of the opcode table -/

/-- The word whose low `nbits` bits are those of `w` and whose other bits are 0 (log 20). -/
def tableWord (nbits w : Nat) : Word := BitVec.ofNat 16 (w % 2 ^ min nbits 16)

/-- The instruction the decoder reads from the word `w`, laid out as memory holds it (R53). -/
def decodeTableWord (nbits w : Nat) : Option Instr :=
  match decode (bytesOfWord (tableWord nbits w)) with
  | .ok (i, _) => some i
  | .error _ => none

end Sys2Proof
end

