-- ==== Sys2Proof/Machine/State.lean ====
section
/-! DEFINITION. The state of one core (spec/10_state.md), its reset value (R37), and the ways an operation can end. -/

namespace Sys2Proof.Machine

/-- Memory as plain data: the bytes that differ from the power-on contents, addresses strictly rising (log 12). What an
unlisted address reads as is `Memory.unlisted`; the form is `Memory.wf` (both in Machine/Ops.lean). -/
abbrev Memory := List Host.Cell

/-- The framebuffer: 32 rows of 64 cells (R31); bit `x` of row `y` is the cell at column `x` (log 19). -/
abbrev Framebuffer := Vector (BitVec 64) 32

/-- The whole state of a core: the tuple of spec/10_state.md, and after it two fields of the model's own. -/
structure State where
  /-- `V0` to `VF` (R20) -/
  v     : Vector Byte 16
  /-- `I` (R26) -/
  i     : Word
  /-- `pc` (R24) -/
  pc    : Addr
  /-- `SP`, the number of entries in use, 0 to 16 (R27) -/
  sp    : Fin 17
  /-- `stack[0]` to `stack[15]` (R27) -/
  stack : Vector Addr 16
  /-- `DT` (R30) -/
  dt    : Byte
  /-- `ST` (R30) -/
  st    : Byte
  /-- `fb` (R31) -/
  fb    : Framebuffer
  /-- `keys`: bit `k` is the flag of key `k` (R33) -/
  keys  : KeySet
  /-- `mem` (R34) -/
  mem   : Memory
  /-- the model's own: the parameters the core was built with (log 1) -/
  cfg   : Config
  /-- the model's own: how many random bytes have been drawn (log 5) -/
  draws : Nat
  deriving DecidableEq, Repr

/-- The four errors of R250, a closed list without payload (R256). An error leaves the state as it was (R254). -/
inductive Fault where
  /-- raised by `Step` when the fetched word decodes to no instruction (R251); safe: the spec's own error -/
  | unknownInstruction
  /-- raised by 2NNN when `SP = 16` (R252); safe: the spec's own error -/
  | callStackOverflow
  /-- raised by 00EE when `SP = 0` (R253); safe: the spec's own error -/
  | returnStackUnderflow
  /-- raised by `Load`, never by `Step`, when the image is longer than 3584 bytes (R255); safe: the spec's own error -/
  | romTooLarge
  deriving DecidableEq, Repr

/-- Reasons to give an instruction no meaning. None is ever raised: every instruction has its meaning. -/
inductive Refusal where
  /-- would be raised by an arm of `exec` that has no meaning yet; there is none; safe -/
  | notModelled (mnemonic : String)
  deriving DecidableEq, Repr

/-- The power-on state of R37 of a core built with the parameters `cfg`; `draws` is the model's own counter. -/
def State.powerOn (cfg : Config) (draws : Nat) : State where
  v := Vector.replicate 16 0
  i := 0
  pc := 0x200
  sp := 0
  stack := Vector.replicate 16 0
  dt := 0
  st := 0
  fb := Vector.replicate 32 0
  keys := 0
  mem := []
  cfg := cfg
  draws := draws

/-- The machine right after reset (R37, R290), built with the default parameters of R7. DESIGN CHOICE (log 1, log 5): the
values of the model's own fields `cfg` and `draws`. -/
def State.reset : State := State.powerOn Config.default 0

end Sys2Proof.Machine
end

