-- ==== Sys2Proof/Machine/Ops.lean ====
section
/-! DEFINITION. The named operations over registers, the program counter, the stack, memory and the framebuffer: the
pseudocode primitives of spec/00_scope.md R10, and the raising of an error (spec/60_exceptions.md R254). -/

namespace Sys2Proof.Machine

/-! ## Memory (spec/20_memory.md) -/

/-- What an unlisted address reads as: the power-on contents of R37, the glyph table at 0x050 to 0x09F and 0 elsewhere. -/
def Memory.unlisted (glyphs : Glyphs) (a : Nat) : Byte :=
  if h : 0x050 ≤ a ∧ a < 0x0A0 then (glyphs[(a - 0x050) / 5]'(by omega))[(a - 0x050) % 5]'(by omega) else 0

/-- The byte at address `a` (R50). -/
def Memory.read (glyphs : Glyphs) (a : Nat) : Memory → Byte
  | [] => Memory.unlisted glyphs a
  | (b, v) :: rest => if b = a then v else Memory.read glyphs a rest

/-- Put `v` at address `a` at the head of cells that all lie above `a`, listing it only if it differs from what an unlisted
address reads as. -/
def Memory.put (glyphs : Glyphs) (a : Nat) (v : Byte) (rest : Memory) : Memory :=
  if v = Memory.unlisted glyphs a then rest else (a, v) :: rest

/-- Store `v` at address `a` (R51), keeping the canonical form. -/
def Memory.write (glyphs : Glyphs) (a : Nat) (v : Byte) : Memory → Memory
  | [] => Memory.put glyphs a v []
  | (b, w) :: rest =>
    if a < b then Memory.put glyphs a v ((b, w) :: rest)
    else if a = b then Memory.put glyphs a v rest
    else (b, w) :: Memory.write glyphs a v rest

/-- All listed addresses are at least `low` and below 4096, strictly rising, and no entry equals what an unlisted address
reads as. -/
def Memory.wfFrom (glyphs : Glyphs) : Nat → Memory → Bool
  | _, [] => true
  | low, (a, v) :: rest =>
    decide (low ≤ a) && decide (a < 4096) && decide (v ≠ Memory.unlisted glyphs a) && Memory.wfFrom glyphs (a + 1) rest

/-- The canonical form of a memory (log 12). -/
def Memory.wf (glyphs : Glyphs) (m : Memory) : Bool := Memory.wfFrom glyphs 0 m

/-- `MemRead(a, 1)` (R50): masked by the width of `Addr`, never fails, no side effect. -/
def State.readByte (s : State) (a : Addr) : Byte := Memory.read s.cfg.glyphs a.toNat s.mem

/-- `MemWrite(a, 1, v)` (R51): every address can be written, the glyph table too (R60). -/
def State.writeByte (s : State) (a : Addr) (v : Byte) : State := { s with mem := Memory.write s.cfg.glyphs a.toNat v s.mem }

/-- `MemRead(pc, 2)` (R52, R101): big-endian, the second address masked like any other. -/
def State.fetchWord (s : State) : Word := wordOfBytes (s.readByte s.pc) (s.readByte (s.pc + 1))

/-- The word `op` placed at the program counter, as memory holds it (R53). -/
def State.storeAtPc (s : State) (op : Word) : State :=
  (s.writeByte s.pc (op.extractLsb' 8 8)).writeByte (s.pc + 1) (op.extractLsb' 0 8)

/-- The bytes of `bytes` at `a`, `a + 1`, ... in order. -/
def State.writeBytes (s : State) (a : Addr) : List Byte → State
  | [] => s
  | b :: rest => (s.writeByte a b).writeBytes (a + 1) rest

/-! ## General registers (R20, R21) -/

/-- `V[x]` -/
def State.reg (s : State) (x : Nibble) : Byte := s.v[x.toNat]

/-- `V[x] <- b`; no register is hardwired (R21). -/
def State.setReg (s : State) (x : Nibble) (b : Byte) : State := { s with v := s.v.set x.toNat b }

/-! ## Index register, timers (R26, R30) -/

/-- `I <- w` -/
def State.setIndex (s : State) (w : Word) : State := { s with i := w }

/-- `DT <- b` -/
def State.setDelay (s : State) (b : Byte) : State := { s with dt := b }

/-- `ST <- b` -/
def State.setSound (s : State) (b : Byte) : State := { s with st := b }

/-! ## Program counter (R24, R25, R103) -/

/-- `pc <- t`, taken modulo 4096 by the width of `Addr` (R24; the spec's own decision D16, log 10). -/
def State.setPc (s : State) (t : Addr) : State := { s with pc := t }

/-- `pc <- pc0 + 2`: the end of every instruction outside the branch, skip, call and return family (R103). -/
def State.advance (s : State) : State := s.setPc (s.pc + 2)

/-- `pc <- pc0 + (c ? 4 : 2)`: the skips (R124 to R127, R210, R211). -/
def State.skipIf (s : State) (c : Bool) : State := s.setPc (s.pc + if c then 4 else 2)

/-! ## Errors (spec/60_exceptions.md) -/

/-- `raise E`: the operation ends with the error and changes nothing (R254); there is no trap entry, nothing is saved and
nothing is restored (R259, R260). The state before the operation is what the host goes on with (`operate`). -/
def raise (e : Fault) : Host.Outcome State Fault Refusal := .fault e

/-! ## Stack (R27 to R29) -/

/-- `Push(a)` (R28), and then `k` on the state it leaves. -/
def State.push (s : State) (a : Addr) (k : State → State) : Host.Outcome State Fault Refusal :=
  if h : s.sp.val < 16 then
    .next (k { s with stack := s.stack.set s.sp.val a, sp := ⟨s.sp.val + 1, by omega⟩ })
  else raise .callStackOverflow

/-- `Pop()` (R29), and then `k` on the value returned and the state it leaves; the popped cell keeps its value. -/
def State.pop (s : State) (k : Addr → State → State) : Host.Outcome State Fault Refusal :=
  if h : 0 < s.sp.val then
    .next (k (s.stack[s.sp.val - 1]'(by omega)) { s with sp := ⟨s.sp.val - 1, by omega⟩ })
  else raise .returnStackUnderflow

/-! ## Framebuffer (spec/44_display.md) -/

/-- The cell `fb[y][x]`. -/
def Framebuffer.cell (fb : Framebuffer) (x : Column) (y : RowNumber) : Bool := fb[y.toNat].getLsbD x.toNat

/-- `fb[y][x] <- fb[y][x] ^ 1` -/
def Framebuffer.flip (fb : Framebuffer) (x : Column) (y : RowNumber) : Framebuffer :=
  fb.set y.toNat (fb[y.toNat] ^^^ BitVec.twoPow 64 x.toNat)

/-- All cells 0 (R191). -/
def Framebuffer.clear : Framebuffer := Vector.replicate 32 0

/-- The cell `fb[y][x]` of a state. -/
def State.pixel (s : State) (x : Column) (y : RowNumber) : Bool := Framebuffer.cell s.fb x y

/-- A framebuffer being drawn on, and whether a cell has been turned from 1 to 0 so far (`hit` of R192). -/
structure Canvas where
  fb  : Framebuffer
  hit : Bool
  deriving DecidableEq, Repr

/-- One sprite bit at (x, y) (R192): a 0 bit changes nothing and cannot collide. -/
def Canvas.plot (c : Canvas) (bit : Bool) (x : Column) (y : RowNumber) : Canvas :=
  if bit then ⟨Framebuffer.flip c.fb x y, c.hit || Framebuffer.cell c.fb x y⟩ else c

/-- The first `n` pixels of the sprite row `b`, from column `x0` to the right, each column wrapped (R190, R192): bit `7 - c`
of `b` is the pixel `c` columns to the right. -/
def Canvas.drawRow (c : Canvas) (b : Byte) (x0 : Column) (y : RowNumber) : Nat → Canvas
  | 0 => c
  | n + 1 => (c.drawRow b x0 y n).plot (b.getLsbD (7 - n)) (x0 + BitVec.ofNat 6 n) y

/-- The first `n` rows of a sprite whose byte of row `r` is `rowByte r`, from row `y0` downward, each row wrapped (R190,
R192). -/
def Canvas.drawRows (c : Canvas) (rowByte : Nat → Byte) (x0 : Column) (y0 : RowNumber) : Nat → Canvas
  | 0 => c
  | n + 1 => (c.drawRows rowByte x0 y0 n).drawRow (rowByte n) x0 (y0 + BitVec.ofNat 5 n) 8

/-! ## The random byte (R154) -/

/-- The byte `rand` of this step and the state in which the next draw is a fresh one (log 5). -/
def State.drawByte (s : State) : Byte × State := (Config.freeByte s.cfg.randomSource s.draws, { s with draws := s.draws + 1 })

end Sys2Proof.Machine
end

