-- ==== Sys2Proof/Machine/Operands.lean ====
section
/-! DEFINITION. Operand forms: the effective address, the operands a parameter of spec/00_scope.md R7 selects, sprite
positions, key indexes, and the register ranges of FX55 and FX65. -/

namespace Sys2Proof.Machine

/-- `EA(k) = (I + k) mod 4096` (spec/43_index_memory.md R170, spec/20_memory.md R68): the full `I`, reduced at the point of
use, per byte. -/
def State.ea (s : State) (k : Nat) : Addr := BitVec.ofNat 12 (s.i.toNat + k)

/-- The operand of 8XY6 and 8XYE under `SHIFT_SOURCE` (spec/42_alu.md R150, R152). -/
def State.shiftOperand (s : State) (x y : Nibble) : Byte :=
  match s.cfg.shiftSource with
  | .vx => s.reg x
  | .vy => s.reg y

/-- The offset of BNNN under `JUMP_OFFSET` (spec/41_control_flow.md R123): `V0`, or `VX` with X the top digit of NNN. -/
def State.jumpOffset (s : State) (nnn : Addr) : Byte :=
  match s.cfg.jumpOffset with
  | .v0 => s.reg 0
  | .vx => s.reg (nnn.extractLsb' 8 4)

/-- `I` after FX55 or FX65 with count field `x` under `LOADSTORE_I_ADVANCE` (spec/43_index_memory.md R175, R176). -/
def State.advanceIndex (s : State) (x : Nibble) : State :=
  match s.cfg.loadStoreAdvance with
  | .unchanged => s
  | .xPlus1 => s.setIndex (BitVec.ofNat 16 (s.i.toNat + x.toNat + 1))

/-- `I_WRAP` as a number (spec/43_index_memory.md R172). -/
def State.indexModulus (s : State) : Nat :=
  match s.cfg.indexWrap with
  | .mod65536 => 65536
  | .mod4096 => 4096

/-- `x0 = V[X] mod 64` (spec/44_display.md R192). -/
def State.spriteColumn (s : State) (x : Nibble) : Column := BitVec.ofNat 6 (s.reg x).toNat

/-- `y0 = V[Y] mod 32` (R192). -/
def State.spriteRow (s : State) (y : Nibble) : RowNumber := BitVec.ofNat 5 (s.reg y).toNat

/-- The sprite byte of row `r`: `MemRead(EA(r), 1)` (R192). -/
def State.spriteByte (s : State) (r : Nat) : Byte := s.readByte (s.ea r)

/-- The key index of EX9E and EXA1: `V[X] mod 16` (spec/45_keypad_timers.md R212; the spec's own decision D8, log 8). -/
def State.keyIndex (s : State) (x : Nibble) : Nibble := BitVec.ofNat 4 (s.reg x).toNat

/-- `keys[k]` (spec/10_state.md R33): true is pressed. -/
def State.keyDown (s : State) (k : Nibble) : Bool := s.keys.getLsbD k.toNat

/-- The least index at least `k` of a key in `pressed`, looking at `fuel` indexes. -/
def lowestKeyFrom (pressed : KeySet) (k : Nat) : Nat → Option Nibble
  | 0 => none
  | fuel + 1 => if pressed.getLsbD k then some (BitVec.ofNat 4 k) else lowestKeyFrom pressed (k + 1) fuel

/-- The least index of a pressed key, none if no key is down: the default of `KEY_SELECT` (R213). -/
def lowestKey (pressed : KeySet) : Option Nibble := lowestKeyFrom pressed 0 16

/-- The key the table of exceptions names for exactly this set, if it is a member of it (log 6). -/
def chosenKey (pressed : KeySet) : List KeyChoice → Option Nibble
  | [] => none
  | c :: rest => if c.pressed = pressed ∧ pressed.getLsbD c.key.toNat then some c.key else chosenKey pressed rest

/-- `KEY_SELECT(P)` for `P` the keys now down, none if `P` is empty (R213). -/
def State.selectKey (s : State) : Option Nibble := (chosenKey s.keys s.cfg.keyChoices).or (lowestKey s.keys)

/-- `for k in 0 .. n-1: MemWrite(EA(k), 1, V[k])`, ascending (R175). -/
def State.storeRegs (s : State) : Nat → State
  | 0 => s
  | n + 1 => (s.storeRegs n).writeByte (s.ea n) (s.reg (BitVec.ofNat 4 n))

/-- `for k in 0 .. n-1: V[k] <- MemRead(EA(k), 1)`, ascending (R176). -/
def State.loadRegs (s : State) : Nat → State
  | 0 => s
  | n + 1 => (s.loadRegs n).setReg (BitVec.ofNat 4 n) (s.readByte (s.ea n))

end Sys2Proof.Machine
end

