-- ==== Sys2Proof/Machine/Flags.lean ====
section
/-! DEFINITION. The values VF receives as a flag (spec/10_state.md R23) and the order of the two writes of the flag-writing
instructions (spec/42_alu.md R140). -/

namespace Sys2Proof.Machine

/-- A flag as VF holds it: 1 or 0 (R22). -/
def flagByte (c : Bool) : Byte := if c then 1 else 0

/-- 8XY4: 1 iff `a + b > 255` (R147). -/
def carryFlag (a b : Byte) : Byte := flagByte (decide (a.toNat + b.toNat > 255))

/-- 8XY5 and 8XY7: 1 iff `a >= b`, no borrow in `a - b` (R148, R151). -/
def noBorrowFlag (a b : Byte) : Byte := flagByte (decide (b.toNat ≤ a.toNat))

/-- 8XY6: bit 0 before the shift (R150). -/
def shiftedOutRight (a : Byte) : Byte := flagByte (a.getLsbD 0)

/-- 8XYE: bit 7 before the shift (R152). -/
def shiftedOutLeft (a : Byte) : Byte := flagByte (a.getLsbD 7)

/-- `V[0xF] <- flag`, then `V[X] <- result`, then `pc <- pc0 + 2` (R140): with X = F the result survives (the spec's own
decision D6, log 7). -/
def State.writeFlagged (s : State) (x : Nibble) (flag result : Byte) : State :=
  ((s.setReg vf flag).setReg x result).advance

end Sys2Proof.Machine
end

