-- ==== Sys2Proof/Machine/Alu.lean ====
section
/-! DEFINITION. Register load, arithmetic, logic, shift, random (spec/42_alu.md). Operands are read from the state before the
instruction (R140). -/

namespace Sys2Proof.Machine

/-- 6XNN (R141): `V[X] <- NN`. -/
def exec6XNN (x : Nibble) (nn : Byte) (s : State) : Host.Outcome State Fault Refusal := .next (s.setReg x nn).advance

/-- 7XNN (R142): `V[X] <- (V[X] + NN) mod 256`; VF is not written as a flag. -/
def exec7XNN (x : Nibble) (nn : Byte) (s : State) : Host.Outcome State Fault Refusal :=
  .next (s.setReg x (s.reg x + nn)).advance

/-- 8XY0 (R143): `V[X] <- V[Y]`. -/
def exec8XY0 (x y : Nibble) (s : State) : Host.Outcome State Fault Refusal := .next (s.setReg x (s.reg y)).advance

/-- 8XY1 (R144): `V[X] <- V[X] | V[Y]`; VF is not written as a flag (the spec's own decision D7, log 7). -/
def exec8XY1 (x y : Nibble) (s : State) : Host.Outcome State Fault Refusal :=
  .next (s.setReg x (s.reg x ||| s.reg y)).advance

/-- 8XY2 (R145): `V[X] <- V[X] & V[Y]`. -/
def exec8XY2 (x y : Nibble) (s : State) : Host.Outcome State Fault Refusal :=
  .next (s.setReg x (s.reg x &&& s.reg y)).advance

/-- 8XY3 (R146): `V[X] <- V[X] ^ V[Y]`. -/
def exec8XY3 (x y : Nibble) (s : State) : Host.Outcome State Fault Refusal :=
  .next (s.setReg x (s.reg x ^^^ s.reg y)).advance

/-- 8XY4 (R147): `V[0xF] <- (sum > 255) ? 1 : 0; V[X] <- sum mod 256`. -/
def exec8XY4 (x y : Nibble) (s : State) : Host.Outcome State Fault Refusal :=
  .next (s.writeFlagged x (carryFlag (s.reg x) (s.reg y)) (s.reg x + s.reg y))

/-- 8XY5 (R148): `V[0xF] <- (a >= b) ? 1 : 0; V[X] <- (a - b) mod 256`. -/
def exec8XY5 (x y : Nibble) (s : State) : Host.Outcome State Fault Refusal :=
  .next (s.writeFlagged x (noBorrowFlag (s.reg x) (s.reg y)) (s.reg x - s.reg y))

/-- 8XY6 (R150): `V[0xF] <- a & 1; V[X] <- a >> 1`, logical. -/
def exec8XY6 (x y : Nibble) (s : State) : Host.Outcome State Fault Refusal :=
  .next (s.writeFlagged x (shiftedOutRight (s.shiftOperand x y)) (s.shiftOperand x y >>> 1))

/-- 8XY7 (R151): `V[0xF] <- (b >= a) ? 1 : 0; V[X] <- (b - a) mod 256`. -/
def exec8XY7 (x y : Nibble) (s : State) : Host.Outcome State Fault Refusal :=
  .next (s.writeFlagged x (noBorrowFlag (s.reg y) (s.reg x)) (s.reg y - s.reg x))

/-- 8XYE (R152): `V[0xF] <- a[7]; V[X] <- (a << 1) mod 256`. -/
def exec8XYE (x y : Nibble) (s : State) : Host.Outcome State Fault Refusal :=
  .next (s.writeFlagged x (shiftedOutLeft (s.shiftOperand x y)) (s.shiftOperand x y <<< 1))

/-- CXNN (R154): `V[X] <- rand & NN`, `rand` a free value (log 5). -/
def execCXNN (x : Nibble) (nn : Byte) (s : State) : Host.Outcome State Fault Refusal :=
  .next (s.drawByte.2.setReg x (s.drawByte.1 &&& nn)).advance

end Sys2Proof.Machine
end

