-- ==== Sys2Proof/Machine/Control.lean ====
section
/-! DEFINITION. Control transfer (spec/41_control_flow.md): return, jumps, call, skips. -/

namespace Sys2Proof.Machine

/-- 00EE (R120): `a = Pop(); pc <- a + 2`. -/
def exec00EE (s : State) : Host.Outcome State Fault Refusal := s.pop fun a t => t.setPc (a + 2)

/-- 1NNN (R121): `pc <- NNN`. -/
def exec1NNN (nnn : Addr) (s : State) : Host.Outcome State Fault Refusal := .next (s.setPc nnn)

/-- 2NNN (R122): `Push(pc0); pc <- NNN`. The value pushed is the address of this instruction (conflict C3). -/
def exec2NNN (nnn : Addr) (s : State) : Host.Outcome State Fault Refusal := s.push s.pc fun t => t.setPc nnn

/-- BNNN (R123): `pc <- NNN + off`. -/
def execBNNN (nnn : Addr) (s : State) : Host.Outcome State Fault Refusal :=
  .next (s.setPc (BitVec.ofNat 12 (nnn.toNat + (s.jumpOffset nnn).toNat)))

/-- 3XNN (R124): skip if `V[X] = NN`. -/
def exec3XNN (x : Nibble) (nn : Byte) (s : State) : Host.Outcome State Fault Refusal := .next (s.skipIf (s.reg x == nn))

/-- 4XNN (R125): skip if `V[X] != NN`. -/
def exec4XNN (x : Nibble) (nn : Byte) (s : State) : Host.Outcome State Fault Refusal := .next (s.skipIf (s.reg x != nn))

/-- 5XY0 (R126): skip if `V[X] = V[Y]`. -/
def exec5XY0 (x y : Nibble) (s : State) : Host.Outcome State Fault Refusal := .next (s.skipIf (s.reg x == s.reg y))

/-- 9XY0 (R127): skip if `V[X] != V[Y]`. -/
def exec9XY0 (x y : Nibble) (s : State) : Host.Outcome State Fault Refusal := .next (s.skipIf (s.reg x != s.reg y))

end Sys2Proof.Machine
end

