-- ==== Sys2Proof/Machine/Display.lean ====
section
/-! DEFINITION. Display (spec/44_display.md): clear, and draw a sprite with collision. -/

namespace Sys2Proof.Machine

/-- 00E0 (R191): every cell to 0. -/
def exec00E0 (s : State) : Host.Outcome State Fault Refusal := .next { s with fb := Framebuffer.clear }.advance

/-- The canvas after all `n` rows of the sprite at `I` are drawn at (V[X] mod 64, V[Y] mod 32) (R192). -/
def State.drawSprite (s : State) (x y n : Nibble) : Canvas :=
  Canvas.drawRows ⟨s.fb, false⟩ s.spriteByte (s.spriteColumn x) (s.spriteRow y) n.toNat

/-- DXYN (R192): exclusive-or the sprite, `V[0xF] <- hit`. The position is read before VF is written. -/
def execDXYN (x y n : Nibble) (s : State) : Host.Outcome State Fault Refusal :=
  .next ({ s with fb := (s.drawSprite x y n).fb }.setReg vf (flagByte (s.drawSprite x y n).hit)).advance

end Sys2Proof.Machine
end

