-- ==== Sys2Proof/Machine/IndexMemory.lean ====
section
/-! DEFINITION. Index register and memory transfer (spec/43_index_memory.md). -/

namespace Sys2Proof.Machine

/-- ANNN (R173): `I <- NNN`, bits 15 to 12 become 0. -/
def execANNN (nnn : Addr) (s : State) : Host.Outcome State Fault Refusal := .next (s.setIndex (nnn.setWidth 16)).advance

/-- FX1E (R172): `I <- (I + V[X]) mod I_WRAP`; VF is not written. -/
def execFX1E (x : Nibble) (s : State) : Host.Outcome State Fault Refusal :=
  .next (s.setIndex (BitVec.ofNat 16 ((s.i.toNat + (s.reg x).toNat) % s.indexModulus))).advance

/-- FX29 (R174): `I <- 0x050 + V[X] * 5`, the whole byte (the spec's own decision D17, log 11). -/
def execFX29 (x : Nibble) (s : State) : Host.Outcome State Fault Refusal :=
  .next (s.setIndex (BitVec.ofNat 16 (0x050 + (s.reg x).toNat * 5))).advance

/-- FX33 (R177): the decimal digits of `V[X]`, hundreds at the lowest address, one byte each. -/
def execFX33 (x : Nibble) (s : State) : Host.Outcome State Fault Refusal :=
  .next ((((s.writeByte (s.ea 0) (s.reg x / 100#8)).writeByte (s.ea 1) (s.reg x / 10#8 % 10#8)).writeByte
    (s.ea 2) (s.reg x % 10#8)).advance)

/-- FX55 (R175): `V0` to `VX` stored from `EA(0)` up; `I` per `LOADSTORE_I_ADVANCE`. -/
def execFX55 (x : Nibble) (s : State) : Host.Outcome State Fault Refusal :=
  .next ((s.storeRegs (x.toNat + 1)).advanceIndex x).advance

/-- FX65 (R176): `V0` to `VX` loaded from `EA(0)` up; `I` per `LOADSTORE_I_ADVANCE`. -/
def execFX65 (x : Nibble) (s : State) : Host.Outcome State Fault Refusal :=
  .next ((s.loadRegs (x.toNat + 1)).advanceIndex x).advance

end Sys2Proof.Machine
end

