-- ==== Sys2Proof/Machine/KeypadTimers.lean ====
section
/-! DEFINITION. Keypad and timer instructions (spec/45_keypad_timers.md). -/

namespace Sys2Proof.Machine

/-- EX9E (R210): skip if the key is pressed. -/
def execEX9E (x : Nibble) (s : State) : Host.Outcome State Fault Refusal := .next (s.skipIf (s.keyDown (s.keyIndex x)))

/-- EXA1 (R211): skip if the key is not pressed. -/
def execEXA1 (x : Nibble) (s : State) : Host.Outcome State Fault Refusal := .next (s.skipIf (!s.keyDown (s.keyIndex x)))

/-- FX07 (R214): `V[X] <- DT`. -/
def execFX07 (x : Nibble) (s : State) : Host.Outcome State Fault Refusal := .next (s.setReg x s.dt).advance

/-- FX0A (R213): with no key pressed nothing changes (the outcome is `WaitingForKey`, `stepOutcome`); else
`V[X] <- KEY_SELECT(P)`. -/
def execFX0A (x : Nibble) (s : State) : Host.Outcome State Fault Refusal :=
  match s.selectKey with
  | none => .next s
  | some k => .next (s.setReg x (k.setWidth 8)).advance

/-- FX15 (R215): `DT <- V[X]`. -/
def execFX15 (x : Nibble) (s : State) : Host.Outcome State Fault Refusal := .next (s.setDelay (s.reg x)).advance

/-- FX18 (R216): `ST <- V[X]`. -/
def execFX18 (x : Nibble) (s : State) : Host.Outcome State Fault Refusal := .next (s.setSound (s.reg x)).advance

end Sys2Proof.Machine
end

