-- ==== Sys2Proof/Machine/Step.lean ====
section
/-! DEFINITION. The execution cycle (spec/40_cycle.md R100): fetch, decode, execute, as one atomic transition. -/

namespace Sys2Proof.Machine

/-- One `Step` event (R100): a word that decodes to no instruction raises `UnknownInstruction` before anything is executed
(R104); an instruction writes `pc` itself (R103), so nothing is added around `exec`. -/
def step (s : State) : Host.Outcome State Fault Refusal :=
  match decodeWord s.fetchWord with
  | .ok i => exec i s
  | .error _ => raise .unknownInstruction

/-- `s` with the word `w` stored at `pc`, where `step` fetches its next instruction (log 20). -/
def State.withFetchWord (s : State) (nbits w : Nat) : State := s.storeAtPc (tableWord nbits w)

end Sys2Proof.Machine
end

