-- ==== Sys2Proof/Machine/Boundary.lean ====
section
/-! DEFINITION. The operations at the core's boundary (spec/46_host_operations.md R231): `Load`, `Step`, `TickTimers`,
`ReadFramebuffer`, `ShouldBeep`, `SetKey`, `Reset`, and an execution as a list of them (R232). -/

namespace Sys2Proof.Machine

/-! ## The state changes of the host's operations -/

/-- One timer of `TickTimers`: down by one, staying at 0 (spec/60_exceptions.md R263). -/
def tickByte (b : Byte) : Byte := if b = 0 then 0 else b - 1

/-- `TickTimers()` (R263). -/
def State.tickTimers (s : State) : State := { s with dt := tickByte s.dt, st := tickByte s.st }

/-- `SetKey(k, p)` (R235); an index outside 0 to 15 cannot be expressed (the spec's own decision D22, log 18). -/
def State.setKey (s : State) (k : Nibble) (p : Bool) : State :=
  { s with keys := if p then s.keys ||| BitVec.twoPow 16 k.toNat else s.keys &&& ~~~ BitVec.twoPow 16 k.toNat }

/-- `Load(bytes)` (spec/20_memory.md R56, R57): to 0x200, or `RomTooLarge` with nothing written. -/
def loadImage (bytes : List Byte) (s : State) : Host.Outcome State Fault Refusal :=
  if imageWellFormed bytes then .next (s.writeBytes 0x200 bytes) else raise .romTooLarge

/-- `Reset()` (spec/70_reset_and_hazards.md R291): the power-on state again, of the same core: the parameters it was built
with stay, and random bytes already drawn do not come again (log 16). -/
def State.resetAgain (s : State) : State := State.powerOn s.cfg s.draws

/-- `ShouldBeep()` (R237): `ST > 0`. -/
def State.shouldBeep (s : State) : Bool := decide (s.st.toNat > 0)

/-! ## The result of a `Step` -/

/-- The two values `Step` returns when it raises nothing (R100, R105, R106). -/
inductive StepOutcome where
  | advanced
  | waitingForKey
  deriving DecidableEq, Repr

/-- The outcome of an instruction that raised nothing: `WaitingForKey` in one case only, FX0A with no key pressed (R106). -/
def instrOutcome (i : Instr) (s : State) : StepOutcome :=
  match i with
  | .opFX0A _ => if s.selectKey = none then .waitingForKey else .advanced
  | .op00E0 | .op00EE => .advanced
  | .op1NNN _ | .op2NNN _ | .opANNN _ | .opBNNN _ => .advanced
  | .op3XNN _ _ | .op4XNN _ _ | .op6XNN _ _ | .op7XNN _ _ | .opCXNN _ _ => .advanced
  | .op5XY0 _ _ | .op8XY0 _ _ | .op8XY1 _ _ | .op8XY2 _ _ | .op8XY3 _ _ | .op8XY4 _ _ | .op8XY5 _ _ | .op8XY6 _ _
  | .op8XY7 _ _ | .op8XYE _ _ | .op9XY0 _ _ => .advanced
  | .opDXYN _ _ _ => .advanced
  | .opEX9E _ | .opEXA1 _ | .opFX07 _ | .opFX15 _ | .opFX18 _ | .opFX1E _ | .opFX29 _ | .opFX33 _ | .opFX55 _
  | .opFX65 _ => .advanced

/-- The outcome `Step` returns in the state `s` if it raises nothing. -/
def stepOutcome (s : State) : StepOutcome :=
  match decodeWord s.fetchWord with
  | .ok i => instrOutcome i s
  | .error _ => .advanced

/-! ## Operations and executions -/

/-- The seven operations of R231. -/
inductive Operation where
  | load (bytes : List Byte)
  | step
  | tickTimers
  | readFramebuffer
  | shouldBeep
  | setKey (k : Nibble) (pressed : Bool)
  | reset
  deriving DecidableEq, Repr

/-- What an operation returns to the host (R231). -/
inductive Response where
  /-- `void`, or the success of `Load` -/
  | done
  /-- `Step` raised nothing -/
  | stepped (o : StepOutcome)
  /-- one of the four errors of R250 -/
  | err (e : Fault)
  /-- never returned: no instruction is refused -/
  | refused (r : Refusal)
  /-- the grid of `ReadFramebuffer` (R236) -/
  | frame (fb : Framebuffer)
  /-- the value of `ShouldBeep` (R237) -/
  | beep (on : Bool)
  deriving DecidableEq, Repr

/-- The state and the response after an outcome: an error leaves the state as it was (spec/60_exceptions.md R254). -/
def settle (s : State) (ok : Response) : Host.Outcome State Fault Refusal → State × Response
  | .next t => (t, ok)
  | .fault e => (s, .err e)
  | .refused r => (s, .refused r)

/-- One operation, atomic and complete when it returns (R232). -/
def operate (op : Operation) (s : State) : State × Response :=
  match op with
  | .load bytes => settle s .done (loadImage bytes s)
  | .step => settle s (.stepped (stepOutcome s)) (step s)
  | .tickTimers => (s.tickTimers, .done)
  | .readFramebuffer => (s, .frame s.fb)
  | .shouldBeep => (s, .beep s.shouldBeep)
  | .setKey k p => (s.setKey k p, .done)
  | .reset => (s.resetAgain, .done)

/-- The state after a sequence of operations, in any order the host chooses (R232). -/
def runOps : List Operation → State → State
  | [], s => s
  | op :: rest, s => runOps rest (operate op s).1

/-- The responses of a sequence of operations, in order. -/
def responses : List Operation → State → List Response
  | [], _ => []
  | op :: rest, s => (operate op s).2 :: responses rest (operate op s).1

/-! ## Several cores (R238) -/

/-- One operation of a host that embeds several cores, on the core number `n`: each core is an independent state, and no
operation acts on two (R238). Its response is that of `operate` on that core. -/
def operateAt (op : Operation) (n : Nat) (cores : List State) : List State := cores.modify n fun s => (operate op s).1

end Sys2Proof.Machine
end

