-- ==== Sys2Proof/Safety.lean ====
section
/-! DEFINITION. The terms claims use: what an operation leaves unchanged, the values of the power-on state, the cells a sprite
covers, the invariant of a state, reachable states, and a run without errors. -/

namespace Sys2Proof.Machine

/-! ## What is left unchanged from `s` to `t` -/

/-- Every byte of memory reads as before. -/
def SameMemory (s t : State) : Prop := ∀ a : Addr, t.readByte a = s.readByte a

/-- Every general register is as before. -/
def SameRegs (s t : State) : Prop := ∀ r : Nibble, t.reg r = s.reg r

/-- Every general register but VX is as before. -/
def OtherRegs (s t : State) (x : Nibble) : Prop := ∀ r : Nibble, r ≠ x → t.reg r = s.reg r

/-- `SP` and every stack entry are as before. -/
def SameStack (s t : State) : Prop := t.sp = s.sp ∧ ∀ (j : Nat) (h : j < 16), t.stack[j] = s.stack[j]

/-- Both timers are as before. -/
def SameTimers (s t : State) : Prop := t.dt = s.dt ∧ t.st = s.st

/-- Every framebuffer cell is as before. -/
def SameScreen (s t : State) : Prop := ∀ (x : Column) (y : RowNumber), t.pixel x y = s.pixel x y

/-- Every key flag is as before. -/
def SameKeys (s t : State) : Prop := ∀ k : Nibble, t.keyDown k = s.keyDown k

/-- The model's own fields are as before: the parameters the core was built with and the count of random bytes drawn. -/
def SameModelFields (s t : State) : Prop := t.cfg = s.cfg ∧ t.draws = s.draws

/-- Frame of an instruction that writes general registers and `pc` only: `I`, memory, framebuffer, stack, timers, keys and the
model's own fields are as before. -/
def OnlyRegsAndPc (s t : State) : Prop :=
  t.i = s.i ∧ SameMemory s t ∧ SameScreen s t ∧ SameStack s t ∧ SameTimers s t ∧ SameKeys s t ∧ SameModelFields s t

/-- Frame of a jump or a skip: nothing but `pc` changes. -/
def OnlyPc (s t : State) : Prop := SameRegs s t ∧ OnlyRegsAndPc s t

/-- `pc` has moved by `n`, modulo 4096 (spec/00_scope.md R10, spec/10_state.md R24; the wrap: the spec's own decision D16,
log 10). -/
def PcPlus (s t : State) (n : Nat) : Prop := t.pc.toNat = (s.pc.toNat + n) % 4096

/-! ## The power-on state (spec/10_state.md R37) -/

/-- `t` holds the values R37 tabulates, for a core built with the glyph bytes `glyphs`. -/
def PowerOnValues (glyphs : Glyphs) (t : State) : Prop :=
  (∀ r, t.reg r = 0) ∧ t.i = 0 ∧ t.pc.toNat = 0x200 ∧ t.sp.val = 0 ∧ (∀ (j : Nat) (h : j < 16), t.stack[j] = 0) ∧
    t.dt = 0 ∧ t.st = 0 ∧ (∀ x y, t.pixel x y = false) ∧ (∀ k, t.keyDown k = false) ∧
    (∀ (d : Nat) (hd : d < 16) (r : Nat) (hr : r < 5), t.readByte (BitVec.ofNat 12 (0x050 + 5 * d + r)) = glyphs[d][r]) ∧
    (∀ a : Addr, a.toNat < 0x050 ∨ 0x0A0 ≤ a.toNat → t.readByte a = 0)

/-! ## Sprites (spec/44_display.md R190, R192) -/

/-- The sprite that DXYN draws in `s` has a 1 bit on the cell (cx, cy): some row `r` below N and column `c` in 0 to 7 land on
that cell, both wrapped, and bit `7 - c` of the byte at `EA(r)` is 1. -/
def SpriteCovers (s : State) (x y n : Nibble) (cx : Column) (cy : RowNumber) : Bool :=
  (List.range n.toNat).any fun r => (List.range 8).any fun c =>
    decide (cx.toNat = ((s.reg x).toNat % 64 + c) % 64) && decide (cy.toNat = ((s.reg y).toNat % 32 + r) % 32) &&
      (s.readByte (s.ea r)).getLsbD (7 - c)

/-- The parity of the 1 sprite bits placed on the cell (cx, cy), after `op` is applied in `s`, from the parity before it: a
clear and a reset start the count anew (spec/10_state.md R32). -/
def parityAfter (cx : Column) (cy : RowNumber) (op : Operation) (s : State) (p : Bool) : Bool :=
  match op with
  | .reset => false
  | .step =>
    match decodeWord s.fetchWord with
    | .ok .op00E0 => false
    | .ok (.opDXYN x y n) => p ^^ SpriteCovers s x y n cx cy
    | _ => p
  | .load _ | .tickTimers | .readFramebuffer | .shouldBeep | .setKey _ _ => p

/-- The same parity after a run from `s`, from the parity before the run. -/
def parityAlong (cx : Column) (cy : RowNumber) : List Operation → State → Bool → Bool
  | [], _, p => p
  | op :: rest, s, p => parityAlong cx cy rest (operate op s).1 (parityAfter cx cy op s p)

/-! ## Timers along a run (spec/60_exceptions.md R264) -/

/-- `op` applied in `s` writes the delay timer other than by a tick. -/
def WritesDelay (op : Operation) (s : State) : Prop :=
  op = .reset ∨ (op = .step ∧ ∃ x, decodeWord s.fetchWord = .ok (.opFX15 x))

/-- `op` applied in `s` writes the sound timer other than by a tick. -/
def WritesSound (op : Operation) (s : State) : Prop :=
  op = .reset ∨ (op = .step ∧ ∃ x, decodeWord s.fetchWord = .ok (.opFX18 x))

/-- No operation of the run has the property `P` in the state it is applied in. -/
def NeverAlong (P : Operation → State → Prop) : List Operation → State → Prop
  | [], _ => True
  | op :: rest, s => ¬ P op s ∧ NeverAlong P rest (operate op s).1

/-- How many of the operations are `TickTimers`. -/
def tickCount (ops : List Operation) : Nat := ops.count .tickTimers

/-! ## What no operation can observe (spec/43_index_memory.md R171) -/

/-- `t` is `s` but for bits 15 to 12 of `I` and the parameter `I_WRAP`. -/
def SameButIndexHigh (s t : State) : Prop :=
  t = { s with i := t.i, cfg := { s.cfg with indexWrap := t.cfg.indexWrap } } ∧ t.i.toNat % 4096 = s.i.toNat % 4096

/-! ## The invariant and reachable states -/

/-- The invariant of a state: its memory is in canonical form and its parameters are ones the spec allows. Everything else
the spec bounds (register widths, `SP` in 0 to 16, `pc` below 4096) is bounded by the types of the fields. -/
def State.Inv (s : State) : Prop := Memory.wf s.cfg.glyphs s.mem = true ∧ s.cfg.wellFormed = true

/-- A state that some sequence of operations of the host reaches from the power-on state of some core
(spec/46_host_operations.md R232). -/
def Reachable (s : State) : Prop :=
  ∃ cfg draws ops, Config.wellFormed cfg = true ∧ s = runOps ops (State.powerOn cfg draws)

/-! ## Several cores (spec/46_host_operations.md R238) -/

/-- No two cores of the host share a random source (R238, log 5). -/
abbrev OwnSources (cores : List State) : Prop := (cores.map fun s => s.cfg.randomSource).Nodup

/-! ## Safe runs -/

/-- A response that is no error. -/
def Response.ok : Response → Bool
  | .err _ | .refused _ => false
  | .done | .stepped _ | .frame _ | .beep _ => true

/-- No operation of the run returns an error: "a program is correct only if no `Step` of it returns `Err`" (R260). -/
def ErrorFree (ops : List Operation) (s : State) : Prop := ∀ r ∈ responses ops s, r.ok = true

end Sys2Proof.Machine
end

