-- ==== Sys2Proof/Certificates/Slice0/Obligations.lean ====
section
/-! DEFINITION. The statements for the provers. Each cites the rule of spec/ it formalises; a clause that rests on a decision
of the spec's own (D<n> of spec/92_eei_decisions.md) or on an entry of the assumption log says so. The statements about one
instruction give its encoding, that it completes (or where it raises), its result, and its frame. Every sum on `pc` is taken
modulo 4096: the spec's own decision D16 (log 10). -/

open Sys2Proof
open Sys2Proof.Machine

/-! ## Encoding -/

/-- Decoding the word of a well-formed instruction gives the instruction back, with the bytes after it untouched (R84, R85). -/
def Obligations.DecodeOfEncodeIsIdentity : Prop :=
  ∀ i : Instr, i.wellFormed = true →
    decodeWord (encode i) = .ok i ∧ ∀ rest, decode (bytesOfWord (encode i) ++ rest) = .ok (i, rest)

/-- A word that decodes to an instruction is that instruction's word: no bit of it is ignored (R86). -/
def Obligations.NoBitOfAWordIsIgnored : Prop :=
  ∀ (op : Word) (i : Instr), decodeWord op = .ok i → encode i = op

/-- R84: a word is an instruction iff it matches that instruction's row, `op & mask = match`, and no word matches two rows. -/
def Obligations.DecodesIffItMatchesItsRow : Prop :=
  (∀ op : Word, (∃ i, decodeWord op = .ok i) ↔ ∃ r ∈ opcodeTable, op &&& r.mask = r.value) ∧
  (∀ (op : Word) (i : Instr), decodeWord op = .ok i → ∀ r ∈ opcodeTable, op &&& r.mask = r.value ↔ r = i.row)

/-- Words written out from R84, one or more for each format of R82, decode to what they stand for. -/
def Obligations.SampleWordsDecode : Prop :=
  decodeWord 0x00E0 = .ok .op00E0 ∧ decodeWord 0x00EE = .ok .op00EE ∧ decodeWord 0x2FFF = .ok (.op2NNN 0xFFF) ∧
  decodeWord 0x6A05 = .ok (.op6XNN 0xA 0x05) ∧ decodeWord 0x8AB7 = .ok (.op8XY7 0xA 0xB) ∧
  decodeWord 0xD123 = .ok (.opDXYN 0x1 0x2 0x3) ∧ decodeWord 0xEFA1 = .ok (.opEXA1 0xF) ∧
  decodeWord 0xF355 = .ok (.opFX55 0x3) ∧ decodeWord 0x0000 = .error .unknownInstruction ∧
  decodeWord 0x8AB8 = .error .unknownInstruction

/-! ## The cycle -/

/-- R52, R101: the fetched word is the byte at `pc` times 256 plus the byte at `(pc + 1) mod 4096` (the wrap: decision D16). -/
def Obligations.FetchIsBigEndianAtPc : Prop :=
  ∀ s : State, s.fetchWord.toNat =
    (s.readByte s.pc).toNat * 256 + (s.readByte (BitVec.ofNat 12 (s.pc.toNat + 1))).toNat

/-- R100: when the bytes at `pc` decode to a well-formed instruction, `step` is `exec` of it on that state, nothing added. -/
def Obligations.StepRunsTheDecodedInstruction : Prop :=
  ∀ (s : State) (i : Instr) (rest after : List Byte),
    decode (s.readByte s.pc :: s.readByte (s.pc + 1) :: rest) = .ok (i, after) → i.wellFormed = true →
      step s = exec i s ∧ after = rest

/-- A word placed by `withFetchWord` in a state with a canonical memory is the one the next step runs (log 20). -/
def Obligations.PlacedWordIsRunNext : Prop :=
  ∀ (s : State) (w : Nat) (i : Instr), s.Inv → w < 65536 → decodeTableWord 16 w = some i →
    (s.withFetchWord 16 w).fetchWord.toNat = w ∧ step (s.withFetchWord 16 w) = exec i (s.withFetchWord 16 w)

/-- R251 to R253, R255: exactly when `Step` raises each error; it never raises `RomTooLarge` and refuses nothing. -/
def Obligations.StepRaisesExactlyTheseErrors : Prop :=
  ∀ s : State,
    (step s = .fault .unknownInstruction ↔ ∀ i, decodeWord s.fetchWord ≠ .ok i) ∧
    (step s = .fault .callStackOverflow ↔ (∃ nnn, decodeWord s.fetchWord = .ok (.op2NNN nnn)) ∧ s.sp.val = 16) ∧
    (step s = .fault .returnStackUnderflow ↔ decodeWord s.fetchWord = .ok .op00EE ∧ s.sp.val = 0) ∧
    step s ≠ .fault .romTooLarge ∧ ∀ r, step s ≠ .refused r

/-- R106: `Step` returns `WaitingForKey` exactly when the fetched instruction is FX0A and no key is pressed, and then the
state is unchanged; it returns `Advanced` in every other case in which it raises nothing (R105). -/
def Obligations.WaitsExactlyAtFX0AWithNoKey : Prop :=
  ∀ s : State,
    ((operate .step s).2 = .stepped .waitingForKey ↔
      (∃ x, decodeWord s.fetchWord = .ok (.opFX0A x)) ∧ ∀ k, s.keyDown k = false) ∧
    ((operate .step s).2 = .stepped .waitingForKey → (operate .step s).1 = s) ∧
    (∀ t, step s = .next t → (operate .step s).2 ≠ .stepped .waitingForKey → operate .step s = (t, .stepped .advanced))

/-- R254, R260: an operation that raises an error leaves the state as it was, and applied again it raises the same error (the
spec's decision D11, log 13). -/
def Obligations.ErrorsChangeNothingAndRecur : Prop :=
  ∀ (op : Operation) (s t : State) (e : Fault), operate op s = (t, .err e) → t = s ∧ operate op t = (s, .err e)

/-- R260: an error of `Step` recurs until a `Load` or a `Reset`; no `SetKey`, no `TickTimers` and no read-out cures it, and no
such sequence of operations with a `Step` in it is free of errors. -/
def Obligations.ErrorsLastUntilLoadOrReset : Prop :=
  ∀ (s : State) (e : Fault), step s = .fault e →
    ∀ ops : List Operation, (∀ op ∈ ops, op ≠ .reset ∧ ∀ bytes, op ≠ .load bytes) →
      (∀ r ∈ responses ops s, (∀ o, r ≠ .stepped o) ∧ ∀ e', r = .err e' → e' = e) ∧
      (Operation.step ∈ ops → ¬ ErrorFree ops s)

/-! ## Control transfer -/

/-- R120: 00EE pops the address of the call and continues after it; with an empty stack it raises `ReturnStackUnderflow`. -/
def Obligations.ReturnPopsAndAddsTwo : Prop :=
  decodeWord 0x00EE = .ok .op00EE ∧ ∀ s : State,
    (∀ h : 0 < s.sp.val, ∃ t, exec .op00EE s = .next t ∧
      t.pc.toNat = ((s.stack[s.sp.val - 1]'(by omega)).toNat + 2) % 4096 ∧ t.sp.val = s.sp.val - 1 ∧
      (∀ (j : Nat) (hj : j < 16), t.stack[j] = s.stack[j]) ∧
      SameRegs s t ∧ t.i = s.i ∧ SameMemory s t ∧ SameScreen s t ∧ SameTimers s t ∧ SameKeys s t ∧ SameModelFields s t) ∧
    (s.sp.val = 0 → exec .op00EE s = .fault .returnStackUnderflow)

/-- R121: 1NNN sets `pc` to NNN and changes nothing else. -/
def Obligations.JumpSetsPc : Prop :=
  ∀ nnn : Addr, decodeWord (0x1#4 ++ nnn) = .ok (.op1NNN nnn) ∧
    ∀ s : State, ∃ t, exec (.op1NNN nnn) s = .next t ∧ t.pc = nnn ∧ OnlyPc s t

/-- R122: 2NNN pushes its own address and jumps; with a full stack it raises `CallStackOverflow`. -/
def Obligations.CallPushesItsOwnAddress : Prop :=
  ∀ nnn : Addr, decodeWord (0x2#4 ++ nnn) = .ok (.op2NNN nnn) ∧ ∀ s : State,
    (∀ h : s.sp.val < 16, ∃ t, exec (.op2NNN nnn) s = .next t ∧
      t.pc = nnn ∧ t.sp.val = s.sp.val + 1 ∧ t.stack[s.sp.val] = s.pc ∧
      (∀ (j : Nat) (hj : j < 16), j ≠ s.sp.val → t.stack[j] = s.stack[j]) ∧
      SameRegs s t ∧ t.i = s.i ∧ SameMemory s t ∧ SameScreen s t ∧ SameTimers s t ∧ SameKeys s t ∧ SameModelFields s t) ∧
    (s.sp.val = 16 → exec (.op2NNN nnn) s = .fault .callStackOverflow)

/-- R123: BNNN jumps to NNN plus V0, or plus VX with X the top digit of NNN where the core is built so (decision D3, log 3). -/
def Obligations.JumpWithOffsetAddsARegister : Prop :=
  ∀ nnn : Addr, decodeWord (0xB#4 ++ nnn) = .ok (.opBNNN nnn) ∧
    ∀ s : State, ∃ t, exec (.opBNNN nnn) s = .next t ∧
      (s.cfg.jumpOffset = .v0 → t.pc.toNat = (nnn.toNat + (s.reg 0).toNat) % 4096) ∧
      (s.cfg.jumpOffset = .vx → t.pc.toNat = (nnn.toNat + (s.reg (BitVec.ofNat 4 (nnn.toNat / 256))).toNat) % 4096) ∧
      OnlyPc s t

/-- R124, R125: 3XNN skips iff `V[X] = NN`, 4XNN iff `V[X] != NN`. -/
def Obligations.ImmediateSkipsCompareVxWithNn : Prop :=
  ∀ (x : Nibble) (nn : Byte),
    decodeWord (0x3#4 ++ x ++ nn) = .ok (.op3XNN x nn) ∧ decodeWord (0x4#4 ++ x ++ nn) = .ok (.op4XNN x nn) ∧
    ∀ s : State,
      (∃ t, exec (.op3XNN x nn) s = .next t ∧ PcPlus s t (if s.reg x = nn then 4 else 2) ∧ OnlyPc s t) ∧
      (∃ t, exec (.op4XNN x nn) s = .next t ∧ PcPlus s t (if s.reg x = nn then 2 else 4) ∧ OnlyPc s t)

/-- R126, R127: 5XY0 skips iff `V[X] = V[Y]`, 9XY0 iff `V[X] != V[Y]`; other last digits are illegal (R88). -/
def Obligations.RegisterSkipsCompareVxWithVy : Prop :=
  ∀ x y : Nibble,
    decodeWord (0x5#4 ++ x ++ y ++ 0x0#4) = .ok (.op5XY0 x y) ∧ decodeWord (0x9#4 ++ x ++ y ++ 0x0#4) = .ok (.op9XY0 x y) ∧
    (∀ n : Nibble, n ≠ 0 → decodeWord (0x5#4 ++ x ++ y ++ n) = .error .unknownInstruction ∧
      decodeWord (0x9#4 ++ x ++ y ++ n) = .error .unknownInstruction) ∧
    ∀ s : State,
      (∃ t, exec (.op5XY0 x y) s = .next t ∧ PcPlus s t (if s.reg x = s.reg y then 4 else 2) ∧ OnlyPc s t) ∧
      (∃ t, exec (.op9XY0 x y) s = .next t ∧ PcPlus s t (if s.reg x = s.reg y then 2 else 4) ∧ OnlyPc s t)

/-- R128: a return that finds the entry a call pushed continues after the call, with `SP` as before the call. -/
def Obligations.CallThenReturnComesBack : Prop :=
  ∀ (nnn : Addr) (s t : State), exec (.op2NNN nnn) s = .next t →
    ∃ h : s.sp.val < 16, ∀ u : State, u.sp = t.sp → u.stack[s.sp.val] = t.stack[s.sp.val] →
      ∃ w, exec .op00EE u = .next w ∧ w.pc.toNat = (s.pc.toNat + 2) % 4096 ∧ w.sp = s.sp

/-! ## Register load, arithmetic, logic, shift, random -/

/-- R141: 6XNN sets VX to NN. -/
def Obligations.LoadImmediateSetsVx : Prop :=
  ∀ (x : Nibble) (nn : Byte), decodeWord (0x6#4 ++ x ++ nn) = .ok (.op6XNN x nn) ∧
    ∀ s : State, ∃ t, exec (.op6XNN x nn) s = .next t ∧
      t.reg x = nn ∧ OtherRegs s t x ∧ PcPlus s t 2 ∧ OnlyRegsAndPc s t

/-- R142: 7XNN adds NN to VX modulo 256, and writes no flag. -/
def Obligations.AddImmediateWrapsWithoutFlag : Prop :=
  ∀ (x : Nibble) (nn : Byte), decodeWord (0x7#4 ++ x ++ nn) = .ok (.op7XNN x nn) ∧
    ∀ s : State, ∃ t, exec (.op7XNN x nn) s = .next t ∧
      (t.reg x).toNat = ((s.reg x).toNat + nn.toNat) % 256 ∧ OtherRegs s t x ∧ PcPlus s t 2 ∧ OnlyRegsAndPc s t

/-- R143: 8XY0 copies VY to VX; with X = Y it changes nothing but `pc`. -/
def Obligations.CopySetsVxToVy : Prop :=
  ∀ x y : Nibble, decodeWord (0x8#4 ++ x ++ y ++ 0x0#4) = .ok (.op8XY0 x y) ∧
    ∀ s : State, ∃ t, exec (.op8XY0 x y) s = .next t ∧
      t.reg x = s.reg y ∧ OtherRegs s t x ∧ PcPlus s t 2 ∧ OnlyRegsAndPc s t ∧ (x = y → OnlyPc s t)

/-- R144 to R146: 8XY1, 8XY2, 8XY3 are bitwise or, and, exclusive or, bit by bit, and write no flag (decision D7). -/
def Obligations.LogicIsBitwiseWithoutFlag : Prop :=
  ∀ x y : Nibble,
    decodeWord (0x8#4 ++ x ++ y ++ 0x1#4) = .ok (.op8XY1 x y) ∧ decodeWord (0x8#4 ++ x ++ y ++ 0x2#4) = .ok (.op8XY2 x y) ∧
    decodeWord (0x8#4 ++ x ++ y ++ 0x3#4) = .ok (.op8XY3 x y) ∧
    ∀ s : State,
      (∃ t, exec (.op8XY1 x y) s = .next t ∧
        (∀ b < 8, (t.reg x).getLsbD b = ((s.reg x).getLsbD b || (s.reg y).getLsbD b)) ∧
        OtherRegs s t x ∧ PcPlus s t 2 ∧ OnlyRegsAndPc s t) ∧
      (∃ t, exec (.op8XY2 x y) s = .next t ∧
        (∀ b < 8, (t.reg x).getLsbD b = ((s.reg x).getLsbD b && (s.reg y).getLsbD b)) ∧
        OtherRegs s t x ∧ PcPlus s t 2 ∧ OnlyRegsAndPc s t) ∧
      (∃ t, exec (.op8XY3 x y) s = .next t ∧
        (∀ b < 8, (t.reg x).getLsbD b = ((s.reg x).getLsbD b != (s.reg y).getLsbD b)) ∧
        OtherRegs s t x ∧ PcPlus s t 2 ∧ OnlyRegsAndPc s t)

/-- R147: 8XY4 adds; VF is the carry, unless X = F, where the sum survives (R140, decision D6, log 7). -/
def Obligations.AddSetsCarry : Prop :=
  ∀ x y : Nibble, decodeWord (0x8#4 ++ x ++ y ++ 0x4#4) = .ok (.op8XY4 x y) ∧
    ∀ s : State, ∃ t, exec (.op8XY4 x y) s = .next t ∧
      (t.reg x).toNat = ((s.reg x).toNat + (s.reg y).toNat) % 256 ∧
      (x ≠ vf → t.reg vf = if (s.reg x).toNat + (s.reg y).toNat > 255 then 1 else 0) ∧
      (∀ r, r ≠ x → r ≠ vf → t.reg r = s.reg r) ∧ PcPlus s t 2 ∧ OnlyRegsAndPc s t

/-- R148, R151: 8XY5 gives VX - VY, 8XY7 gives VY - VX, modulo 256; VF is 1 iff there is no borrow, unless X = F, where the
difference survives (R140, decision D6, log 7). -/
def Obligations.SubtractionsSetNoBorrow : Prop :=
  ∀ x y : Nibble,
    decodeWord (0x8#4 ++ x ++ y ++ 0x5#4) = .ok (.op8XY5 x y) ∧ decodeWord (0x8#4 ++ x ++ y ++ 0x7#4) = .ok (.op8XY7 x y) ∧
    ∀ s : State,
      (∃ t, exec (.op8XY5 x y) s = .next t ∧
        (t.reg x).toNat = ((s.reg x).toNat + 256 - (s.reg y).toNat) % 256 ∧
        (x ≠ vf → t.reg vf = if (s.reg x).toNat ≥ (s.reg y).toNat then 1 else 0) ∧
        (∀ r, r ≠ x → r ≠ vf → t.reg r = s.reg r) ∧ PcPlus s t 2 ∧ OnlyRegsAndPc s t) ∧
      (∃ t, exec (.op8XY7 x y) s = .next t ∧
        (t.reg x).toNat = ((s.reg y).toNat + 256 - (s.reg x).toNat) % 256 ∧
        (x ≠ vf → t.reg vf = if (s.reg y).toNat ≥ (s.reg x).toNat then 1 else 0) ∧
        (∀ r, r ≠ x → r ≠ vf → t.reg r = s.reg r) ∧ PcPlus s t 2 ∧ OnlyRegsAndPc s t)

/-- R150, R152: 8XY6 and 8XYE shift VX, or VY where the core is built so (decision D2, log 3), by one bit; VF is the bit
shifted out, unless X = F, where the shifted value survives (R140, decision D6, log 7). -/
def Obligations.ShiftsMoveOneBitIntoVf : Prop :=
  ∀ x y : Nibble,
    decodeWord (0x8#4 ++ x ++ y ++ 0x6#4) = .ok (.op8XY6 x y) ∧ decodeWord (0x8#4 ++ x ++ y ++ 0xE#4) = .ok (.op8XYE x y) ∧
    ∀ (s : State) (a : Byte), a = (if s.cfg.shiftSource = .vx then s.reg x else s.reg y) →
      (∃ t, exec (.op8XY6 x y) s = .next t ∧
        (t.reg x).toNat = a.toNat / 2 ∧ (x ≠ vf → (t.reg vf).toNat = a.toNat % 2) ∧
        (∀ r, r ≠ x → r ≠ vf → t.reg r = s.reg r) ∧ PcPlus s t 2 ∧ OnlyRegsAndPc s t) ∧
      (∃ t, exec (.op8XYE x y) s = .next t ∧
        (t.reg x).toNat = 2 * a.toNat % 256 ∧ (x ≠ vf → (t.reg vf).toNat = a.toNat / 128) ∧
        (∀ r, r ≠ x → r ≠ vf → t.reg r = s.reg r) ∧ PcPlus s t 2 ∧ OnlyRegsAndPc s t)

/-- R154: CXNN sets VX to a random byte masked by NN. The byte is the free value of this draw from this core's random source,
about which nothing is known, and the next draw is another one (log 5). -/
def Obligations.RandomIsMaskedByNn : Prop :=
  ∀ (x : Nibble) (nn : Byte), decodeWord (0xC#4 ++ x ++ nn) = .ok (.opCXNN x nn) ∧
    ∀ s : State, ∃ t, exec (.opCXNN x nn) s = .next t ∧
      (∀ b < 8, (t.reg x).getLsbD b = ((Config.freeByte s.cfg.randomSource s.draws).getLsbD b && nn.getLsbD b)) ∧
      (t.reg x).toNat ≤ nn.toNat ∧ t.draws = s.draws + 1 ∧ OtherRegs s t x ∧ PcPlus s t 2 ∧
      t.i = s.i ∧ SameMemory s t ∧ SameScreen s t ∧ SameStack s t ∧ SameTimers s t ∧ SameKeys s t ∧ t.cfg = s.cfg

/-- R23: who writes VF as a flag. An instruction outside the six flag writers leaves VF alone unless its X field is F; each
flag writer's value of VF (for the five 8XY rows with X other than F; R140 says which write survives when X = F). -/
def Obligations.OnlySixInstructionsWriteTheFlag : Prop :=
  (∀ (i : Instr) (s t : State), exec i s = .next t →
    (∀ x y n, i ≠ .op8XY4 x y ∧ i ≠ .op8XY5 x y ∧ i ≠ .op8XY6 x y ∧ i ≠ .op8XY7 x y ∧ i ≠ .op8XYE x y ∧
      i ≠ .opDXYN x y n) →
    fieldX (encode i) ≠ 0xF#4 → t.reg vf = s.reg vf) ∧
  (∀ (s : State) (x y : Nibble) (a : Byte), x ≠ vf → a = (if s.cfg.shiftSource = .vx then s.reg x else s.reg y) →
    (∃ t, exec (.op8XY4 x y) s = .next t ∧ t.reg vf = if (s.reg x).toNat + (s.reg y).toNat > 255 then 1 else 0) ∧
    (∃ t, exec (.op8XY5 x y) s = .next t ∧ t.reg vf = if (s.reg x).toNat ≥ (s.reg y).toNat then 1 else 0) ∧
    (∃ t, exec (.op8XY6 x y) s = .next t ∧ t.reg vf = if a.getLsbD 0 then 1 else 0) ∧
    (∃ t, exec (.op8XY7 x y) s = .next t ∧ t.reg vf = if (s.reg y).toNat ≥ (s.reg x).toNat then 1 else 0) ∧
    (∃ t, exec (.op8XYE x y) s = .next t ∧ t.reg vf = if a.getLsbD 7 then 1 else 0)) ∧
  (∀ (s : State) (x y n : Nibble), ∃ t, exec (.opDXYN x y n) s = .next t ∧ (t.reg vf = 0 ∨ t.reg vf = 1) ∧
    (t.reg vf = 1 ↔ ∃ cx cy, s.pixel cx cy = true ∧ t.pixel cx cy = false))

/-! ## Index register and memory transfer -/

/-- R173: ANNN sets `I` to NNN. -/
def Obligations.LoadIndexSetsI : Prop :=
  ∀ nnn : Addr, decodeWord (0xA#4 ++ nnn) = .ok (.opANNN nnn) ∧
    ∀ s : State, ∃ t, exec (.opANNN nnn) s = .next t ∧ t.i.toNat = nnn.toNat ∧ SameRegs s t ∧ PcPlus s t 2 ∧
      SameMemory s t ∧ SameScreen s t ∧ SameStack s t ∧ SameTimers s t ∧ SameKeys s t ∧ SameModelFields s t

/-- R172: FX1E adds VX to `I` modulo `I_WRAP` (decision D5, log 4); VF is not written. -/
def Obligations.AddIndexWrapsWithoutFlag : Prop :=
  ∀ x : Nibble, decodeWord (0xF#4 ++ x ++ 0x1E#8) = .ok (.opFX1E x) ∧
    ∀ s : State, ∃ t, exec (.opFX1E x) s = .next t ∧
      (s.cfg.indexWrap = .mod65536 → t.i.toNat = (s.i.toNat + (s.reg x).toNat) % 65536) ∧
      (s.cfg.indexWrap = .mod4096 → t.i.toNat = (s.i.toNat + (s.reg x).toNat) % 4096) ∧ SameRegs s t ∧ PcPlus s t 2 ∧
      SameMemory s t ∧ SameScreen s t ∧ SameStack s t ∧ SameTimers s t ∧ SameKeys s t ∧ SameModelFields s t

/-- R174: FX29 sets `I` to 0x050 + 5 VX; above 15 the whole byte counts (decision D17, log 11). -/
def Obligations.GlyphAddressIsFiveTimesVx : Prop :=
  ∀ x : Nibble, decodeWord (0xF#4 ++ x ++ 0x29#8) = .ok (.opFX29 x) ∧
    ∀ s : State, ∃ t, exec (.opFX29 x) s = .next t ∧
      t.i.toNat = 0x050 + (s.reg x).toNat * 5 ∧ SameRegs s t ∧ PcPlus s t 2 ∧
      SameMemory s t ∧ SameScreen s t ∧ SameStack s t ∧ SameTimers s t ∧ SameKeys s t ∧ SameModelFields s t

/-- R177: FX33 stores the hundreds, tens and ones of VX at EA(0), EA(1), EA(2), one byte each, and changes no other byte. -/
def Obligations.DecimalDigitsAreStored : Prop :=
  ∀ x : Nibble, decodeWord (0xF#4 ++ x ++ 0x33#8) = .ok (.opFX33 x) ∧
    ∀ s : State, ∃ t, exec (.opFX33 x) s = .next t ∧
      (s.Inv → (t.readByte (s.ea 0)).toNat = (s.reg x).toNat / 100 ∧
        (t.readByte (s.ea 1)).toNat = (s.reg x).toNat / 10 % 10 ∧ (t.readByte (s.ea 2)).toNat = (s.reg x).toNat % 10) ∧
      (∀ k, (s.ea k).toNat = (s.i.toNat + k) % 4096) ∧
      (∀ a : Addr, a ≠ s.ea 0 → a ≠ s.ea 1 → a ≠ s.ea 2 → t.readByte a = s.readByte a) ∧
      t.i = s.i ∧ SameRegs s t ∧ PcPlus s t 2 ∧
      SameScreen s t ∧ SameStack s t ∧ SameTimers s t ∧ SameKeys s t ∧ SameModelFields s t

/-- R175: FX55 stores V0 to VX at EA(0) to EA(X), and changes no other byte; `I` stays, or advances by X + 1 where the core is
built so (decision D4, log 3). -/
def Obligations.StoreRegistersWritesTheirBytes : Prop :=
  ∀ x : Nibble, decodeWord (0xF#4 ++ x ++ 0x55#8) = .ok (.opFX55 x) ∧
    ∀ s : State, ∃ t, exec (.opFX55 x) s = .next t ∧
      (s.Inv → ∀ k ≤ x.toNat, t.readByte (s.ea k) = s.reg (BitVec.ofNat 4 k)) ∧
      (∀ a : Addr, (∀ k ≤ x.toNat, a ≠ s.ea k) → t.readByte a = s.readByte a) ∧
      t.i.toNat = (if s.cfg.loadStoreAdvance = .xPlus1 then (s.i.toNat + x.toNat + 1) % 65536 else s.i.toNat) ∧
      SameRegs s t ∧ PcPlus s t 2 ∧
      SameScreen s t ∧ SameStack s t ∧ SameTimers s t ∧ SameKeys s t ∧ SameModelFields s t

/-- R176: FX65 loads V0 to VX from EA(0) to EA(X), and no register above VX; `I` as for FX55 (decision D4, log 3). -/
def Obligations.LoadRegistersReadsTheirBytes : Prop :=
  ∀ x : Nibble, decodeWord (0xF#4 ++ x ++ 0x65#8) = .ok (.opFX65 x) ∧
    ∀ s : State, ∃ t, exec (.opFX65 x) s = .next t ∧
      (∀ r : Nibble, t.reg r = if r.toNat ≤ x.toNat then s.readByte (s.ea r.toNat) else s.reg r) ∧
      t.i.toNat = (if s.cfg.loadStoreAdvance = .xPlus1 then (s.i.toNat + x.toNat + 1) % 65536 else s.i.toNat) ∧
      SameMemory s t ∧ PcPlus s t 2 ∧
      SameScreen s t ∧ SameStack s t ∧ SameTimers s t ∧ SameKeys s t ∧ SameModelFields s t

/-- R176: FX65 with the X, the `I` and the memory that an FX55 left gives V0 to VX the values that were stored. -/
def Obligations.LoadAfterStoreRestoresRegisters : Prop :=
  ∀ (x : Nibble) (s t u : State), s.Inv → exec (.opFX55 x) s = .next t →
    u.mem = t.mem → u.cfg = t.cfg → u.i = s.i →
    ∃ w, exec (.opFX65 x) u = .next w ∧ ∀ r : Nibble, r.toNat ≤ x.toNat → w.reg r = s.reg r

/-- R171: bits 15 to 12 of `I`, and the parameter `I_WRAP`, cannot be observed: two states that differ in nothing else answer
every sequence of operations alike, and go on differing in nothing else. -/
def Obligations.HighIndexBitsAreUnobservable : Prop :=
  ∀ (ops : List Operation) (s t : State), SameButIndexHigh s t →
    responses ops t = responses ops s ∧ SameButIndexHigh (runOps ops s) (runOps ops t)

/-! ## Display -/

/-- R191: 00E0 sets every cell to 0 and changes nothing else but `pc`. -/
def Obligations.ClearZeroesEveryCell : Prop :=
  decodeWord 0x00E0 = .ok .op00E0 ∧
    ∀ s : State, ∃ t, exec .op00E0 s = .next t ∧ (∀ x y, t.pixel x y = false) ∧ SameRegs s t ∧ t.i = s.i ∧ PcPlus s t 2 ∧
      SameMemory s t ∧ SameStack s t ∧ SameTimers s t ∧ SameKeys s t ∧ SameModelFields s t

/-- R192: DXYN flips exactly the cells the sprite has a 1 bit on, both coordinates wrapped, and sets VF to 1 iff a cell went
from 1 to 0 (geometry, wrap and N = 0: decisions D13, D14, D27, log 9). -/
def Obligations.DrawFlipsTheSpritesCells : Prop :=
  ∀ x y n : Nibble, decodeWord (0xD#4 ++ x ++ y ++ n) = .ok (.opDXYN x y n) ∧
    ∀ s : State, ∃ t, exec (.opDXYN x y n) s = .next t ∧
      (∀ cx cy, t.pixel cx cy = (s.pixel cx cy != SpriteCovers s x y n cx cy)) ∧
      (t.reg vf = 0 ∨ t.reg vf = 1) ∧ (t.reg vf = 1 ↔ ∃ cx cy, s.pixel cx cy = true ∧ t.pixel cx cy = false) ∧
      OtherRegs s t vf ∧ t.i = s.i ∧ PcPlus s t 2 ∧
      SameMemory s t ∧ SameStack s t ∧ SameTimers s t ∧ SameKeys s t ∧ SameModelFields s t

/-- R192(f): drawing the same sprite again at the same place restores the framebuffer. VF is then 1 iff some cell the sprite
covers was 0 before the first draw; R192(f) leaves out the case that all of them were 1 (log 24). -/
def Obligations.DrawingTwiceRestoresTheScreen : Prop :=
  ∀ (x y n : Nibble) (s t u : State), exec (.opDXYN x y n) s = .next t → exec (.opDXYN x y n) t = .next u →
    (t.reg x).toNat % 64 = (s.reg x).toNat % 64 → (t.reg y).toNat % 32 = (s.reg y).toNat % 32 →
      SameScreen s u ∧ (u.reg vf = 1 ↔ ∃ cx cy, SpriteCovers s x y n cx cy = true ∧ s.pixel cx cy = false)

/-- R193: no instruction but 00E0 and DXYN changes a cell, and no operation but `Step` and `Reset` does. -/
def Obligations.FramebufferHasTwoWriters : Prop :=
  (∀ (i : Instr) (s t : State), exec i s = .next t → i ≠ .op00E0 → (∀ x y n, i ≠ .opDXYN x y n) → SameScreen s t) ∧
  (∀ (op : Operation) (s : State), op ≠ .step → op ≠ .reset → SameScreen s (operate op s).1)

/-- R32: every cell is the parity of the 1 sprite bits placed on it since the last clear or reset. In every state each
operation takes a cell to that parity, counted on from the cell's value; the cells are 0 at power-on; so it holds along every
run from there (sprite geometry, wrap and N = 0: decisions D13, D14, D27, log 9; what `Reset` does: decision D20, log 16). -/
def Obligations.ScreenIsTheXorOfAllDraws : Prop :=
  ∀ (cx : Column) (cy : RowNumber),
    (∀ (op : Operation) (s : State), (operate op s).1.pixel cx cy = parityAfter cx cy op s (s.pixel cx cy)) ∧
    ∀ (cfg : Config) (draws : Nat), (State.powerOn cfg draws).pixel cx cy = false ∧
      ∀ ops : List Operation,
        (runOps ops (State.powerOn cfg draws)).pixel cx cy = parityAlong cx cy ops (State.powerOn cfg draws) false

/-! ## Keypad and timers -/

/-- R210 to R212: EX9E skips iff the key `V[X] mod 16` is down, EXA1 iff it is up (above 15: decision D8, log 8). -/
def Obligations.KeySkipsTestTheKeyOfVx : Prop :=
  ∀ x : Nibble,
    decodeWord (0xE#4 ++ x ++ 0x9E#8) = .ok (.opEX9E x) ∧ decodeWord (0xE#4 ++ x ++ 0xA1#8) = .ok (.opEXA1 x) ∧
    ∀ (s : State) (k : Nibble), k.toNat = (s.reg x).toNat % 16 →
      (∃ t, exec (.opEX9E x) s = .next t ∧ PcPlus s t (if s.keyDown k = true then 4 else 2) ∧ OnlyPc s t) ∧
      (∃ t, exec (.opEXA1 x) s = .next t ∧ PcPlus s t (if s.keyDown k = true then 2 else 4) ∧ OnlyPc s t)

/-- R213: FX0A with no key down changes nothing; with keys down it completes and VX is the index of one of them, by default
the lowest (decision D9, log 6). -/
def Obligations.WaitForKeyReportsAPressedKey : Prop :=
  ∀ x : Nibble, decodeWord (0xF#4 ++ x ++ 0x0A#8) = .ok (.opFX0A x) ∧ ∀ s : State,
    ((∀ k, s.keyDown k = false) → exec (.opFX0A x) s = .next s ∧ instrOutcome (.opFX0A x) s = .waitingForKey) ∧
    ((∃ k, s.keyDown k = true) → ∃ t k, exec (.opFX0A x) s = .next t ∧ instrOutcome (.opFX0A x) s = .advanced ∧
      s.keyDown k = true ∧ (s.cfg.keyChoices = [] → ∀ j : Nibble, j.toNat < k.toNat → s.keyDown j = false) ∧
      (t.reg x).toNat = k.toNat ∧ OtherRegs s t x ∧ PcPlus s t 2 ∧ OnlyRegsAndPc s t)

/-- R214: FX07 reads the delay timer. -/
def Obligations.ReadDelayTimer : Prop :=
  ∀ x : Nibble, decodeWord (0xF#4 ++ x ++ 0x07#8) = .ok (.opFX07 x) ∧
    ∀ s : State, ∃ t, exec (.opFX07 x) s = .next t ∧
      t.reg x = s.dt ∧ OtherRegs s t x ∧ PcPlus s t 2 ∧ OnlyRegsAndPc s t

/-- R215, R216: FX15 sets the delay timer, FX18 the sound timer; `ShouldBeep` is then true iff VX is above 0. -/
def Obligations.SetTimersFromVx : Prop :=
  ∀ x : Nibble,
    decodeWord (0xF#4 ++ x ++ 0x15#8) = .ok (.opFX15 x) ∧ decodeWord (0xF#4 ++ x ++ 0x18#8) = .ok (.opFX18 x) ∧
    ∀ s : State,
      (∃ t, exec (.opFX15 x) s = .next t ∧ t.dt = s.reg x ∧ t.st = s.st ∧ SameRegs s t ∧ t.i = s.i ∧ PcPlus s t 2 ∧
        SameMemory s t ∧ SameScreen s t ∧ SameStack s t ∧ SameKeys s t ∧ SameModelFields s t) ∧
      (∃ t, exec (.opFX18 x) s = .next t ∧ t.st = s.reg x ∧ t.dt = s.dt ∧ SameRegs s t ∧ t.i = s.i ∧ PcPlus s t 2 ∧
        SameMemory s t ∧ SameScreen s t ∧ SameStack s t ∧ SameKeys s t ∧ SameModelFields s t ∧
        operate .shouldBeep t = (t, .beep (decide ((s.reg x).toNat > 0))))

/-! ## Whole-machine rules -/

/-- R107: no `Step` ticks a timer; the only effects of a `Step` on the timers are the writes of FX15 and FX18. -/
def Obligations.StepNeverTicksATimer : Prop :=
  ∀ s t : State, step s = .next t →
    (t.dt = s.dt ∨ ∃ x, decodeWord s.fetchWord = .ok (.opFX15 x) ∧ t.dt = s.reg x) ∧
    (t.st = s.st ∨ ∃ x, decodeWord s.fetchWord = .ok (.opFX18 x) ∧ t.st = s.reg x)

/-- R33: the key flags are written only by `SetKey` and by `Reset`. -/
def Obligations.KeysAreWrittenOnlyByTheHost : Prop :=
  ∀ (op : Operation) (s : State), (∀ k p, op ≠ .setKey k p) → op ≠ .reset → SameKeys s (operate op s).1

/-- R109: a `Step` changes memory only by FX33 and FX55; `I` only by ANNN, FX1E and FX29, or FX55 and FX65 where `I` advances;
a stack entry only by 2NNN; `SP` only by 2NNN and 00EE. -/
def Obligations.WritersOfMemoryIndexAndStack : Prop :=
  ∀ s t : State, step s = .next t →
    (SameMemory s t ∨ ∃ x, decodeWord s.fetchWord = .ok (.opFX33 x) ∨ decodeWord s.fetchWord = .ok (.opFX55 x)) ∧
    (t.i = s.i ∨ (∃ nnn, decodeWord s.fetchWord = .ok (.opANNN nnn)) ∨
      (∃ x, decodeWord s.fetchWord = .ok (.opFX1E x) ∨ decodeWord s.fetchWord = .ok (.opFX29 x)) ∨
      (s.cfg.loadStoreAdvance = .xPlus1 ∧
        ∃ x, decodeWord s.fetchWord = .ok (.opFX55 x) ∨ decodeWord s.fetchWord = .ok (.opFX65 x))) ∧
    (t.stack = s.stack ∨ ∃ nnn, decodeWord s.fetchWord = .ok (.op2NNN nnn)) ∧
    (t.sp = s.sp ∨ decodeWord s.fetchWord = .ok .op00EE ∨ ∃ nnn, decodeWord s.fetchWord = .ok (.op2NNN nnn))

/-- The parameters a core was built with, its random source among them, are changed by no operation (R35, log 1). So where
a host embeds several cores, each with a random source of its own, each keeps it, and an operation on one core is that
operation on its state and leaves every other core as it was (R238; the numbered sources: log 5). -/
def Obligations.ParametersNeverChange : Prop :=
  (∀ (ops : List Operation) (s : State), (runOps ops s).cfg = s.cfg) ∧
  ∀ (op : Operation) (n : Nat) (cores : List State),
    (OwnSources cores → OwnSources (operateAt op n cores)) ∧
    (∀ s, cores[n]? = some s → (operateAt op n cores)[n]? = some (operate op s).1) ∧
    ∀ m, m ≠ n → (operateAt op n cores)[m]? = cores[m]?

/-- A step from a state with the invariant, its memory canonical and its parameters allowed, leads to one (log 12). -/
def Obligations.StepKeepsTheInvariant : Prop :=
  ∀ s t : State, s.Inv → step s = .next t → t.Inv

/-- The state after reset has the invariant, and so has the power-on state of every core with allowed parameters (log 12). -/
def Obligations.ResetHasTheInvariant : Prop :=
  State.reset.Inv ∧ ∀ (cfg : Config) (draws : Nat), cfg.wellFormed = true → (State.powerOn cfg draws).Inv

/-- Every operation keeps the invariant, and every reachable state has it (log 12, log 15). -/
def Obligations.ReachableStatesHaveTheInvariant : Prop :=
  (∀ (op : Operation) (s : State), s.Inv → (operate op s).1.Inv) ∧ ∀ s : State, Reachable s → s.Inv

/-- Two canonical memories that read alike at every address are the same list (log 12). -/
def Obligations.CanonicalMemoryIsUnique : Prop :=
  ∀ (glyphs : Glyphs) (m m' : Memory), Memory.wf glyphs m = true → Memory.wf glyphs m' = true →
    (∀ a < 4096, Memory.read glyphs a m = Memory.read glyphs a m') → m = m'

/-! ## The host's operations -/

/-- R263: `TickTimers` takes each non-zero timer down by one, leaves a zero timer at zero, and changes nothing else. -/
def Obligations.TickLowersEachNonzeroTimer : Prop :=
  ∀ s : State, ∃ t, operate .tickTimers s = (t, .done) ∧
    t.dt.toNat = (if s.dt.toNat > 0 then s.dt.toNat - 1 else 0) ∧
    t.st.toNat = (if s.st.toNat > 0 then s.st.toNat - 1 else 0) ∧
    SameRegs s t ∧ t.i = s.i ∧ t.pc = s.pc ∧ SameMemory s t ∧ SameScreen s t ∧ SameStack s t ∧ SameKeys s t ∧
    SameModelFields s t

/-- R264: after `n` ticks among operations that do not write the timer, it holds `max(0, v - n)`. -/
def Obligations.TimerAfterTicks : Prop :=
  ∀ (ops : List Operation) (s : State),
    (NeverAlong WritesDelay ops s → (runOps ops s).dt.toNat = s.dt.toNat - tickCount ops) ∧
    (NeverAlong WritesSound ops s → (runOps ops s).st.toNat = s.st.toNat - tickCount ops)

/-- R235: `SetKey` sets the flag of its key and changes nothing else (a 4-bit index: decision D22, log 18). -/
def Obligations.SetKeySetsOneFlag : Prop :=
  ∀ (k : Nibble) (p : Bool) (s : State), ∃ t, operate (.setKey k p) s = (t, .done) ∧
    t.keyDown k = p ∧ (∀ j, j ≠ k → t.keyDown j = s.keyDown j) ∧
    SameRegs s t ∧ t.i = s.i ∧ t.pc = s.pc ∧ SameMemory s t ∧ SameScreen s t ∧ SameStack s t ∧ SameTimers s t ∧
    SameModelFields s t

/-- R236, R237: `ReadFramebuffer` returns every cell, `ShouldBeep` returns `ST > 0`, and neither changes anything. -/
def Obligations.ReadOutsChangeNothing : Prop :=
  ∀ s : State,
    (∃ fb, operate .readFramebuffer s = (s, .frame fb) ∧ ∀ x y, Framebuffer.cell fb x y = s.pixel x y) ∧
    operate .shouldBeep s = (s, .beep (decide (s.st.toNat > 0)))

/-- R56: `Load` of at most 3584 bytes puts byte `j` at 0x200 + j and changes nothing else (decision D21). -/
def Obligations.LoadWritesTheImage : Prop :=
  ∀ (bytes : List Byte) (s : State), bytes.length ≤ 3584 → ∃ t, operate (.load bytes) s = (t, .done) ∧
    (s.Inv → ∀ (j : Nat) (h : j < bytes.length), t.readByte (BitVec.ofNat 12 (0x200 + j)) = bytes[j]) ∧
    (∀ a : Addr, a.toNat < 0x200 ∨ 0x200 + bytes.length ≤ a.toNat → t.readByte a = s.readByte a) ∧
    SameRegs s t ∧ t.i = s.i ∧ t.pc = s.pc ∧ SameScreen s t ∧ SameStack s t ∧ SameTimers s t ∧ SameKeys s t ∧
    SameModelFields s t

/-- R57: `Load` of more than 3584 bytes fails with `RomTooLarge` and changes nothing, and a later `Load` of a shorter image
succeeds. -/
def Obligations.LoadRejectsALongImage : Prop :=
  ∀ (bytes : List Byte) (s : State), bytes.length > 3584 →
    operate (.load bytes) s = (s, .err .romTooLarge) ∧
    ∀ shorter : List Byte, shorter.length ≤ 3584 → (operate (.load shorter) (operate (.load bytes) s).1).2 = .done

/-- R37: the power-on state holds the values the spec tabulates, whatever the glyph bytes are; so does the state after reset,
with the default glyph bytes (stack entries: decision D19, log 17; glyph bytes: decision D12, log 2). -/
def Obligations.PowerOnStateHasTheSpecsValues : Prop :=
  (∀ (cfg : Config) (draws : Nat), PowerOnValues cfg.glyphs (State.powerOn cfg draws)) ∧
    PowerOnValues Glyphs.default State.reset

/-- R291: `Reset` gives the power-on values again from every state, memory and keys included (decision D20), for the same core
(log 16). -/
def Obligations.ResetReestablishesPowerOn : Prop :=
  ∀ s : State, ∃ t, operate .reset s = (t, .done) ∧ PowerOnValues s.cfg.glyphs t ∧ SameModelFields s t
end

