-- ==== Sys2Proof/Laws/State.lean ====
section
/-! SUPPORT. One lemma per field of `State` per update, and one per accessor that an update leaves alone: all true by `rfl`.
The accessor of what an update does write has its lemma in Laws/Ops.lean. -/

namespace Sys2Proof.Machine

variable (s : State)

/-! ## `setReg` -/

@[simp] theorem State.setReg_v (x : Nibble) (b : Byte) : (s.setReg x b).v = s.v.set x.toNat b := rfl
@[simp] theorem State.setReg_i (x : Nibble) (b : Byte) : (s.setReg x b).i = s.i := rfl
@[simp] theorem State.setReg_pc (x : Nibble) (b : Byte) : (s.setReg x b).pc = s.pc := rfl
@[simp] theorem State.setReg_sp (x : Nibble) (b : Byte) : (s.setReg x b).sp = s.sp := rfl
@[simp] theorem State.setReg_stack (x : Nibble) (b : Byte) : (s.setReg x b).stack = s.stack := rfl
@[simp] theorem State.setReg_dt (x : Nibble) (b : Byte) : (s.setReg x b).dt = s.dt := rfl
@[simp] theorem State.setReg_st (x : Nibble) (b : Byte) : (s.setReg x b).st = s.st := rfl
@[simp] theorem State.setReg_fb (x : Nibble) (b : Byte) : (s.setReg x b).fb = s.fb := rfl
@[simp] theorem State.setReg_keys (x : Nibble) (b : Byte) : (s.setReg x b).keys = s.keys := rfl
@[simp] theorem State.setReg_mem (x : Nibble) (b : Byte) : (s.setReg x b).mem = s.mem := rfl
@[simp] theorem State.setReg_cfg (x : Nibble) (b : Byte) : (s.setReg x b).cfg = s.cfg := rfl
@[simp] theorem State.setReg_draws (x : Nibble) (b : Byte) : (s.setReg x b).draws = s.draws := rfl
@[simp] theorem State.readByte_setReg (x : Nibble) (b : Byte) (a : Addr) : (s.setReg x b).readByte a = s.readByte a := rfl
@[simp] theorem State.pixel_setReg (x : Nibble) (b : Byte) (cx : Column) (cy : RowNumber) : (s.setReg x b).pixel cx cy = s.pixel cx cy := rfl
@[simp] theorem State.keyDown_setReg (x : Nibble) (b : Byte) (j : Nibble) : (s.setReg x b).keyDown j = s.keyDown j := rfl
@[simp] theorem State.ea_setReg (x : Nibble) (b : Byte) (k : Nat) : (s.setReg x b).ea k = s.ea k := rfl
@[simp] theorem State.selectKey_setReg (x : Nibble) (b : Byte) : (s.setReg x b).selectKey = s.selectKey := rfl

/-! ## `setIndex` -/

@[simp] theorem State.setIndex_v (w : Word) : (s.setIndex w).v = s.v := rfl
@[simp] theorem State.setIndex_i (w : Word) : (s.setIndex w).i = w := rfl
@[simp] theorem State.setIndex_pc (w : Word) : (s.setIndex w).pc = s.pc := rfl
@[simp] theorem State.setIndex_sp (w : Word) : (s.setIndex w).sp = s.sp := rfl
@[simp] theorem State.setIndex_stack (w : Word) : (s.setIndex w).stack = s.stack := rfl
@[simp] theorem State.setIndex_dt (w : Word) : (s.setIndex w).dt = s.dt := rfl
@[simp] theorem State.setIndex_st (w : Word) : (s.setIndex w).st = s.st := rfl
@[simp] theorem State.setIndex_fb (w : Word) : (s.setIndex w).fb = s.fb := rfl
@[simp] theorem State.setIndex_keys (w : Word) : (s.setIndex w).keys = s.keys := rfl
@[simp] theorem State.setIndex_mem (w : Word) : (s.setIndex w).mem = s.mem := rfl
@[simp] theorem State.setIndex_cfg (w : Word) : (s.setIndex w).cfg = s.cfg := rfl
@[simp] theorem State.setIndex_draws (w : Word) : (s.setIndex w).draws = s.draws := rfl
@[simp] theorem State.reg_setIndex (w : Word) (r : Nibble) : (s.setIndex w).reg r = s.reg r := rfl
@[simp] theorem State.readByte_setIndex (w : Word) (a : Addr) : (s.setIndex w).readByte a = s.readByte a := rfl
@[simp] theorem State.pixel_setIndex (w : Word) (cx : Column) (cy : RowNumber) : (s.setIndex w).pixel cx cy = s.pixel cx cy := rfl
@[simp] theorem State.keyDown_setIndex (w : Word) (j : Nibble) : (s.setIndex w).keyDown j = s.keyDown j := rfl
@[simp] theorem State.selectKey_setIndex (w : Word) : (s.setIndex w).selectKey = s.selectKey := rfl

/-! ## `setDelay` -/

@[simp] theorem State.setDelay_v (b : Byte) : (s.setDelay b).v = s.v := rfl
@[simp] theorem State.setDelay_i (b : Byte) : (s.setDelay b).i = s.i := rfl
@[simp] theorem State.setDelay_pc (b : Byte) : (s.setDelay b).pc = s.pc := rfl
@[simp] theorem State.setDelay_sp (b : Byte) : (s.setDelay b).sp = s.sp := rfl
@[simp] theorem State.setDelay_stack (b : Byte) : (s.setDelay b).stack = s.stack := rfl
@[simp] theorem State.setDelay_dt (b : Byte) : (s.setDelay b).dt = b := rfl
@[simp] theorem State.setDelay_st (b : Byte) : (s.setDelay b).st = s.st := rfl
@[simp] theorem State.setDelay_fb (b : Byte) : (s.setDelay b).fb = s.fb := rfl
@[simp] theorem State.setDelay_keys (b : Byte) : (s.setDelay b).keys = s.keys := rfl
@[simp] theorem State.setDelay_mem (b : Byte) : (s.setDelay b).mem = s.mem := rfl
@[simp] theorem State.setDelay_cfg (b : Byte) : (s.setDelay b).cfg = s.cfg := rfl
@[simp] theorem State.setDelay_draws (b : Byte) : (s.setDelay b).draws = s.draws := rfl
@[simp] theorem State.reg_setDelay (b : Byte) (r : Nibble) : (s.setDelay b).reg r = s.reg r := rfl
@[simp] theorem State.readByte_setDelay (b : Byte) (a : Addr) : (s.setDelay b).readByte a = s.readByte a := rfl
@[simp] theorem State.pixel_setDelay (b : Byte) (cx : Column) (cy : RowNumber) : (s.setDelay b).pixel cx cy = s.pixel cx cy := rfl
@[simp] theorem State.keyDown_setDelay (b : Byte) (j : Nibble) : (s.setDelay b).keyDown j = s.keyDown j := rfl
@[simp] theorem State.ea_setDelay (b : Byte) (k : Nat) : (s.setDelay b).ea k = s.ea k := rfl
@[simp] theorem State.selectKey_setDelay (b : Byte) : (s.setDelay b).selectKey = s.selectKey := rfl

/-! ## `setSound` -/

@[simp] theorem State.setSound_v (b : Byte) : (s.setSound b).v = s.v := rfl
@[simp] theorem State.setSound_i (b : Byte) : (s.setSound b).i = s.i := rfl
@[simp] theorem State.setSound_pc (b : Byte) : (s.setSound b).pc = s.pc := rfl
@[simp] theorem State.setSound_sp (b : Byte) : (s.setSound b).sp = s.sp := rfl
@[simp] theorem State.setSound_stack (b : Byte) : (s.setSound b).stack = s.stack := rfl
@[simp] theorem State.setSound_dt (b : Byte) : (s.setSound b).dt = s.dt := rfl
@[simp] theorem State.setSound_st (b : Byte) : (s.setSound b).st = b := rfl
@[simp] theorem State.setSound_fb (b : Byte) : (s.setSound b).fb = s.fb := rfl
@[simp] theorem State.setSound_keys (b : Byte) : (s.setSound b).keys = s.keys := rfl
@[simp] theorem State.setSound_mem (b : Byte) : (s.setSound b).mem = s.mem := rfl
@[simp] theorem State.setSound_cfg (b : Byte) : (s.setSound b).cfg = s.cfg := rfl
@[simp] theorem State.setSound_draws (b : Byte) : (s.setSound b).draws = s.draws := rfl
@[simp] theorem State.reg_setSound (b : Byte) (r : Nibble) : (s.setSound b).reg r = s.reg r := rfl
@[simp] theorem State.readByte_setSound (b : Byte) (a : Addr) : (s.setSound b).readByte a = s.readByte a := rfl
@[simp] theorem State.pixel_setSound (b : Byte) (cx : Column) (cy : RowNumber) : (s.setSound b).pixel cx cy = s.pixel cx cy := rfl
@[simp] theorem State.keyDown_setSound (b : Byte) (j : Nibble) : (s.setSound b).keyDown j = s.keyDown j := rfl
@[simp] theorem State.ea_setSound (b : Byte) (k : Nat) : (s.setSound b).ea k = s.ea k := rfl
@[simp] theorem State.selectKey_setSound (b : Byte) : (s.setSound b).selectKey = s.selectKey := rfl

/-! ## `setPc` -/

@[simp] theorem State.setPc_v (t : Addr) : (s.setPc t).v = s.v := rfl
@[simp] theorem State.setPc_i (t : Addr) : (s.setPc t).i = s.i := rfl
@[simp] theorem State.setPc_pc (t : Addr) : (s.setPc t).pc = t := rfl
@[simp] theorem State.setPc_sp (t : Addr) : (s.setPc t).sp = s.sp := rfl
@[simp] theorem State.setPc_stack (t : Addr) : (s.setPc t).stack = s.stack := rfl
@[simp] theorem State.setPc_dt (t : Addr) : (s.setPc t).dt = s.dt := rfl
@[simp] theorem State.setPc_st (t : Addr) : (s.setPc t).st = s.st := rfl
@[simp] theorem State.setPc_fb (t : Addr) : (s.setPc t).fb = s.fb := rfl
@[simp] theorem State.setPc_keys (t : Addr) : (s.setPc t).keys = s.keys := rfl
@[simp] theorem State.setPc_mem (t : Addr) : (s.setPc t).mem = s.mem := rfl
@[simp] theorem State.setPc_cfg (t : Addr) : (s.setPc t).cfg = s.cfg := rfl
@[simp] theorem State.setPc_draws (t : Addr) : (s.setPc t).draws = s.draws := rfl
@[simp] theorem State.reg_setPc (t : Addr) (r : Nibble) : (s.setPc t).reg r = s.reg r := rfl
@[simp] theorem State.readByte_setPc (t : Addr) (a : Addr) : (s.setPc t).readByte a = s.readByte a := rfl
@[simp] theorem State.pixel_setPc (t : Addr) (cx : Column) (cy : RowNumber) : (s.setPc t).pixel cx cy = s.pixel cx cy := rfl
@[simp] theorem State.keyDown_setPc (t : Addr) (j : Nibble) : (s.setPc t).keyDown j = s.keyDown j := rfl
@[simp] theorem State.ea_setPc (t : Addr) (k : Nat) : (s.setPc t).ea k = s.ea k := rfl
@[simp] theorem State.selectKey_setPc (t : Addr) : (s.setPc t).selectKey = s.selectKey := rfl

/-! ## `advance` -/

@[simp] theorem State.advance_v : (s.advance).v = s.v := rfl
@[simp] theorem State.advance_i : (s.advance).i = s.i := rfl
@[simp] theorem State.advance_pc : (s.advance).pc = s.pc + 2 := rfl
@[simp] theorem State.advance_sp : (s.advance).sp = s.sp := rfl
@[simp] theorem State.advance_stack : (s.advance).stack = s.stack := rfl
@[simp] theorem State.advance_dt : (s.advance).dt = s.dt := rfl
@[simp] theorem State.advance_st : (s.advance).st = s.st := rfl
@[simp] theorem State.advance_fb : (s.advance).fb = s.fb := rfl
@[simp] theorem State.advance_keys : (s.advance).keys = s.keys := rfl
@[simp] theorem State.advance_mem : (s.advance).mem = s.mem := rfl
@[simp] theorem State.advance_cfg : (s.advance).cfg = s.cfg := rfl
@[simp] theorem State.advance_draws : (s.advance).draws = s.draws := rfl
@[simp] theorem State.reg_advance (r : Nibble) : (s.advance).reg r = s.reg r := rfl
@[simp] theorem State.readByte_advance (a : Addr) : (s.advance).readByte a = s.readByte a := rfl
@[simp] theorem State.pixel_advance (cx : Column) (cy : RowNumber) : (s.advance).pixel cx cy = s.pixel cx cy := rfl
@[simp] theorem State.keyDown_advance (j : Nibble) : (s.advance).keyDown j = s.keyDown j := rfl
@[simp] theorem State.ea_advance (k : Nat) : (s.advance).ea k = s.ea k := rfl
@[simp] theorem State.selectKey_advance : (s.advance).selectKey = s.selectKey := rfl

/-! ## `skipIf` -/

@[simp] theorem State.skipIf_v (c : Bool) : (s.skipIf c).v = s.v := rfl
@[simp] theorem State.skipIf_i (c : Bool) : (s.skipIf c).i = s.i := rfl
@[simp] theorem State.skipIf_pc (c : Bool) : (s.skipIf c).pc = s.pc + if c then 4 else 2 := rfl
@[simp] theorem State.skipIf_sp (c : Bool) : (s.skipIf c).sp = s.sp := rfl
@[simp] theorem State.skipIf_stack (c : Bool) : (s.skipIf c).stack = s.stack := rfl
@[simp] theorem State.skipIf_dt (c : Bool) : (s.skipIf c).dt = s.dt := rfl
@[simp] theorem State.skipIf_st (c : Bool) : (s.skipIf c).st = s.st := rfl
@[simp] theorem State.skipIf_fb (c : Bool) : (s.skipIf c).fb = s.fb := rfl
@[simp] theorem State.skipIf_keys (c : Bool) : (s.skipIf c).keys = s.keys := rfl
@[simp] theorem State.skipIf_mem (c : Bool) : (s.skipIf c).mem = s.mem := rfl
@[simp] theorem State.skipIf_cfg (c : Bool) : (s.skipIf c).cfg = s.cfg := rfl
@[simp] theorem State.skipIf_draws (c : Bool) : (s.skipIf c).draws = s.draws := rfl
@[simp] theorem State.reg_skipIf (c : Bool) (r : Nibble) : (s.skipIf c).reg r = s.reg r := rfl
@[simp] theorem State.readByte_skipIf (c : Bool) (a : Addr) : (s.skipIf c).readByte a = s.readByte a := rfl
@[simp] theorem State.pixel_skipIf (c : Bool) (cx : Column) (cy : RowNumber) : (s.skipIf c).pixel cx cy = s.pixel cx cy := rfl
@[simp] theorem State.keyDown_skipIf (c : Bool) (j : Nibble) : (s.skipIf c).keyDown j = s.keyDown j := rfl
@[simp] theorem State.ea_skipIf (c : Bool) (k : Nat) : (s.skipIf c).ea k = s.ea k := rfl
@[simp] theorem State.selectKey_skipIf (c : Bool) : (s.skipIf c).selectKey = s.selectKey := rfl

/-! ## `writeByte` -/

@[simp] theorem State.writeByte_v (a : Addr) (b : Byte) : (s.writeByte a b).v = s.v := rfl
@[simp] theorem State.writeByte_i (a : Addr) (b : Byte) : (s.writeByte a b).i = s.i := rfl
@[simp] theorem State.writeByte_pc (a : Addr) (b : Byte) : (s.writeByte a b).pc = s.pc := rfl
@[simp] theorem State.writeByte_sp (a : Addr) (b : Byte) : (s.writeByte a b).sp = s.sp := rfl
@[simp] theorem State.writeByte_stack (a : Addr) (b : Byte) : (s.writeByte a b).stack = s.stack := rfl
@[simp] theorem State.writeByte_dt (a : Addr) (b : Byte) : (s.writeByte a b).dt = s.dt := rfl
@[simp] theorem State.writeByte_st (a : Addr) (b : Byte) : (s.writeByte a b).st = s.st := rfl
@[simp] theorem State.writeByte_fb (a : Addr) (b : Byte) : (s.writeByte a b).fb = s.fb := rfl
@[simp] theorem State.writeByte_keys (a : Addr) (b : Byte) : (s.writeByte a b).keys = s.keys := rfl
@[simp] theorem State.writeByte_mem (a : Addr) (b : Byte) : (s.writeByte a b).mem = Memory.write s.cfg.glyphs a.toNat b s.mem := rfl
@[simp] theorem State.writeByte_cfg (a : Addr) (b : Byte) : (s.writeByte a b).cfg = s.cfg := rfl
@[simp] theorem State.writeByte_draws (a : Addr) (b : Byte) : (s.writeByte a b).draws = s.draws := rfl
@[simp] theorem State.reg_writeByte (a : Addr) (b : Byte) (r : Nibble) : (s.writeByte a b).reg r = s.reg r := rfl
@[simp] theorem State.pixel_writeByte (a : Addr) (b : Byte) (cx : Column) (cy : RowNumber) : (s.writeByte a b).pixel cx cy = s.pixel cx cy := rfl
@[simp] theorem State.keyDown_writeByte (a : Addr) (b : Byte) (j : Nibble) : (s.writeByte a b).keyDown j = s.keyDown j := rfl
@[simp] theorem State.ea_writeByte (a : Addr) (b : Byte) (k : Nat) : (s.writeByte a b).ea k = s.ea k := rfl
@[simp] theorem State.selectKey_writeByte (a : Addr) (b : Byte) : (s.writeByte a b).selectKey = s.selectKey := rfl

/-! ## `writeFlagged` -/

@[simp] theorem State.writeFlagged_v (x : Nibble) (f b : Byte) : (s.writeFlagged x f b).v = (s.v.set 15 f).set x.toNat b := rfl
@[simp] theorem State.writeFlagged_i (x : Nibble) (f b : Byte) : (s.writeFlagged x f b).i = s.i := rfl
@[simp] theorem State.writeFlagged_pc (x : Nibble) (f b : Byte) : (s.writeFlagged x f b).pc = s.pc + 2 := rfl
@[simp] theorem State.writeFlagged_sp (x : Nibble) (f b : Byte) : (s.writeFlagged x f b).sp = s.sp := rfl
@[simp] theorem State.writeFlagged_stack (x : Nibble) (f b : Byte) : (s.writeFlagged x f b).stack = s.stack := rfl
@[simp] theorem State.writeFlagged_dt (x : Nibble) (f b : Byte) : (s.writeFlagged x f b).dt = s.dt := rfl
@[simp] theorem State.writeFlagged_st (x : Nibble) (f b : Byte) : (s.writeFlagged x f b).st = s.st := rfl
@[simp] theorem State.writeFlagged_fb (x : Nibble) (f b : Byte) : (s.writeFlagged x f b).fb = s.fb := rfl
@[simp] theorem State.writeFlagged_keys (x : Nibble) (f b : Byte) : (s.writeFlagged x f b).keys = s.keys := rfl
@[simp] theorem State.writeFlagged_mem (x : Nibble) (f b : Byte) : (s.writeFlagged x f b).mem = s.mem := rfl
@[simp] theorem State.writeFlagged_cfg (x : Nibble) (f b : Byte) : (s.writeFlagged x f b).cfg = s.cfg := rfl
@[simp] theorem State.writeFlagged_draws (x : Nibble) (f b : Byte) : (s.writeFlagged x f b).draws = s.draws := rfl
@[simp] theorem State.readByte_writeFlagged (x : Nibble) (f b : Byte) (a : Addr) : (s.writeFlagged x f b).readByte a = s.readByte a := rfl
@[simp] theorem State.pixel_writeFlagged (x : Nibble) (f b : Byte) (cx : Column) (cy : RowNumber) : (s.writeFlagged x f b).pixel cx cy = s.pixel cx cy := rfl
@[simp] theorem State.keyDown_writeFlagged (x : Nibble) (f b : Byte) (j : Nibble) : (s.writeFlagged x f b).keyDown j = s.keyDown j := rfl
@[simp] theorem State.ea_writeFlagged (x : Nibble) (f b : Byte) (k : Nat) : (s.writeFlagged x f b).ea k = s.ea k := rfl
@[simp] theorem State.selectKey_writeFlagged (x : Nibble) (f b : Byte) : (s.writeFlagged x f b).selectKey = s.selectKey := rfl

/-! ## `tickTimers` -/

@[simp] theorem State.tickTimers_v : (s.tickTimers).v = s.v := rfl
@[simp] theorem State.tickTimers_i : (s.tickTimers).i = s.i := rfl
@[simp] theorem State.tickTimers_pc : (s.tickTimers).pc = s.pc := rfl
@[simp] theorem State.tickTimers_sp : (s.tickTimers).sp = s.sp := rfl
@[simp] theorem State.tickTimers_stack : (s.tickTimers).stack = s.stack := rfl
@[simp] theorem State.tickTimers_dt : (s.tickTimers).dt = tickByte s.dt := rfl
@[simp] theorem State.tickTimers_st : (s.tickTimers).st = tickByte s.st := rfl
@[simp] theorem State.tickTimers_fb : (s.tickTimers).fb = s.fb := rfl
@[simp] theorem State.tickTimers_keys : (s.tickTimers).keys = s.keys := rfl
@[simp] theorem State.tickTimers_mem : (s.tickTimers).mem = s.mem := rfl
@[simp] theorem State.tickTimers_cfg : (s.tickTimers).cfg = s.cfg := rfl
@[simp] theorem State.tickTimers_draws : (s.tickTimers).draws = s.draws := rfl
@[simp] theorem State.reg_tickTimers (r : Nibble) : (s.tickTimers).reg r = s.reg r := rfl
@[simp] theorem State.readByte_tickTimers (a : Addr) : (s.tickTimers).readByte a = s.readByte a := rfl
@[simp] theorem State.pixel_tickTimers (cx : Column) (cy : RowNumber) : (s.tickTimers).pixel cx cy = s.pixel cx cy := rfl
@[simp] theorem State.keyDown_tickTimers (j : Nibble) : (s.tickTimers).keyDown j = s.keyDown j := rfl
@[simp] theorem State.ea_tickTimers (k : Nat) : (s.tickTimers).ea k = s.ea k := rfl
@[simp] theorem State.selectKey_tickTimers : (s.tickTimers).selectKey = s.selectKey := rfl

/-! ## `setKey` -/

@[simp] theorem State.setKey_v (k : Nibble) (p : Bool) : (s.setKey k p).v = s.v := rfl
@[simp] theorem State.setKey_i (k : Nibble) (p : Bool) : (s.setKey k p).i = s.i := rfl
@[simp] theorem State.setKey_pc (k : Nibble) (p : Bool) : (s.setKey k p).pc = s.pc := rfl
@[simp] theorem State.setKey_sp (k : Nibble) (p : Bool) : (s.setKey k p).sp = s.sp := rfl
@[simp] theorem State.setKey_stack (k : Nibble) (p : Bool) : (s.setKey k p).stack = s.stack := rfl
@[simp] theorem State.setKey_dt (k : Nibble) (p : Bool) : (s.setKey k p).dt = s.dt := rfl
@[simp] theorem State.setKey_st (k : Nibble) (p : Bool) : (s.setKey k p).st = s.st := rfl
@[simp] theorem State.setKey_fb (k : Nibble) (p : Bool) : (s.setKey k p).fb = s.fb := rfl
@[simp] theorem State.setKey_keys (k : Nibble) (p : Bool) : (s.setKey k p).keys = if p then s.keys ||| BitVec.twoPow 16 k.toNat else s.keys &&& ~~~ BitVec.twoPow 16 k.toNat := rfl
@[simp] theorem State.setKey_mem (k : Nibble) (p : Bool) : (s.setKey k p).mem = s.mem := rfl
@[simp] theorem State.setKey_cfg (k : Nibble) (p : Bool) : (s.setKey k p).cfg = s.cfg := rfl
@[simp] theorem State.setKey_draws (k : Nibble) (p : Bool) : (s.setKey k p).draws = s.draws := rfl
@[simp] theorem State.reg_setKey (k : Nibble) (p : Bool) (r : Nibble) : (s.setKey k p).reg r = s.reg r := rfl
@[simp] theorem State.readByte_setKey (k : Nibble) (p : Bool) (a : Addr) : (s.setKey k p).readByte a = s.readByte a := rfl
@[simp] theorem State.pixel_setKey (k : Nibble) (p : Bool) (cx : Column) (cy : RowNumber) : (s.setKey k p).pixel cx cy = s.pixel cx cy := rfl
@[simp] theorem State.ea_setKey (k : Nibble) (p : Bool) (j : Nat) : (s.setKey k p).ea j = s.ea j := rfl

/-! ## `drawByte` -/

@[simp] theorem State.drawByte_fst : s.drawByte.1 = Config.freeByte s.cfg.randomSource s.draws := rfl
@[simp] theorem State.drawByte_v : s.drawByte.2.v = s.v := rfl
@[simp] theorem State.drawByte_i : s.drawByte.2.i = s.i := rfl
@[simp] theorem State.drawByte_pc : s.drawByte.2.pc = s.pc := rfl
@[simp] theorem State.drawByte_sp : s.drawByte.2.sp = s.sp := rfl
@[simp] theorem State.drawByte_stack : s.drawByte.2.stack = s.stack := rfl
@[simp] theorem State.drawByte_dt : s.drawByte.2.dt = s.dt := rfl
@[simp] theorem State.drawByte_st : s.drawByte.2.st = s.st := rfl
@[simp] theorem State.drawByte_fb : s.drawByte.2.fb = s.fb := rfl
@[simp] theorem State.drawByte_keys : s.drawByte.2.keys = s.keys := rfl
@[simp] theorem State.drawByte_mem : s.drawByte.2.mem = s.mem := rfl
@[simp] theorem State.drawByte_cfg : s.drawByte.2.cfg = s.cfg := rfl
@[simp] theorem State.drawByte_draws : s.drawByte.2.draws = s.draws + 1 := rfl
@[simp] theorem State.reg_drawByte (r : Nibble) : s.drawByte.2.reg r = s.reg r := rfl
@[simp] theorem State.readByte_drawByte (a : Addr) : s.drawByte.2.readByte a = s.readByte a := rfl
@[simp] theorem State.pixel_drawByte (cx : Column) (cy : RowNumber) : s.drawByte.2.pixel cx cy = s.pixel cx cy := rfl
@[simp] theorem State.keyDown_drawByte (j : Nibble) : s.drawByte.2.keyDown j = s.keyDown j := rfl
@[simp] theorem State.ea_drawByte (k : Nat) : s.drawByte.2.ea k = s.ea k := rfl
@[simp] theorem State.selectKey_drawByte : s.drawByte.2.selectKey = s.selectKey := rfl

/-! ## The power-on state (spec/10_state.md R37) -/

@[simp] theorem State.powerOn_v (cfg : Config) (n : Nat) : (State.powerOn cfg n).v = Vector.replicate 16 0 := rfl
@[simp] theorem State.powerOn_i (cfg : Config) (n : Nat) : (State.powerOn cfg n).i = 0 := rfl
@[simp] theorem State.powerOn_pc (cfg : Config) (n : Nat) : (State.powerOn cfg n).pc = 0x200 := rfl
@[simp] theorem State.powerOn_sp (cfg : Config) (n : Nat) : (State.powerOn cfg n).sp = 0 := rfl
@[simp] theorem State.powerOn_stack (cfg : Config) (n : Nat) : (State.powerOn cfg n).stack = Vector.replicate 16 0 := rfl
@[simp] theorem State.powerOn_dt (cfg : Config) (n : Nat) : (State.powerOn cfg n).dt = 0 := rfl
@[simp] theorem State.powerOn_st (cfg : Config) (n : Nat) : (State.powerOn cfg n).st = 0 := rfl
@[simp] theorem State.powerOn_fb (cfg : Config) (n : Nat) : (State.powerOn cfg n).fb = Vector.replicate 32 0 := rfl
@[simp] theorem State.powerOn_keys (cfg : Config) (n : Nat) : (State.powerOn cfg n).keys = 0 := rfl
@[simp] theorem State.powerOn_mem (cfg : Config) (n : Nat) : (State.powerOn cfg n).mem = [] := rfl
@[simp] theorem State.powerOn_cfg (cfg : Config) (n : Nat) : (State.powerOn cfg n).cfg = cfg := rfl
@[simp] theorem State.powerOn_draws (cfg : Config) (n : Nat) : (State.powerOn cfg n).draws = n := rfl

end Sys2Proof.Machine
end

