-- ==== Sys2Proof/Laws/Memory.lean ====
section
/-! SUPPORT. Memory: read after write, and the canonical form that every memory operation keeps (spec/20_memory.md R50, R51;
notes/assumptions/12.md). -/

namespace Sys2Proof.Machine

variable (g : Glyphs)

@[simp] theorem Memory.read_nil (a : Nat) : Memory.read g a [] = Memory.unlisted g a := rfl

theorem Memory.read_cons (a b : Nat) (v : Byte) (rest : Memory) :
    Memory.read g a ((b, v) :: rest) = if b = a then v else Memory.read g a rest := rfl

/-! ## Canonical form -/

theorem Memory.wfFrom_cons (low a : Nat) (v : Byte) (rest : Memory) :
    Memory.wfFrom g low ((a, v) :: rest) = true ↔
      low ≤ a ∧ a < 4096 ∧ v ≠ Memory.unlisted g a ∧ Memory.wfFrom g (a + 1) rest = true := by
  simp [Memory.wfFrom, and_assoc]

theorem Memory.wfFrom_mono {low low' : Nat} (hl : low ≤ low') : ∀ {m : Memory},
    Memory.wfFrom g low' m = true → Memory.wfFrom g low m = true
  | [], _ => rfl
  | (a, v) :: rest, h => by
    rw [Memory.wfFrom_cons] at h ⊢
    exact ⟨by omega, h.2⟩

/-- An address below every listed one reads as an unlisted address. -/
theorem Memory.read_below {low a : Nat} (ha : a < low) : ∀ {m : Memory},
    Memory.wfFrom g low m = true → Memory.read g a m = Memory.unlisted g a
  | [], _ => rfl
  | (b, v) :: rest, h => by
    rw [Memory.wfFrom_cons] at h
    rw [Memory.read_cons, if_neg (by omega)]
    exact Memory.read_below (by omega) h.2.2.2

/-! ## Writes -/

theorem Memory.put_read_same {a : Nat} {v : Byte} {rest : Memory} (h : Memory.wfFrom g (a + 1) rest = true) :
    Memory.read g a (Memory.put g a v rest) = v := by
  unfold Memory.put
  split
  · rename_i hv
    rw [Memory.read_below g (Nat.lt_succ_self a) h, hv]
  · simp [Memory.read_cons]

theorem Memory.put_read_other {a b : Nat} (hab : b ≠ a) (v : Byte) (rest : Memory) :
    Memory.read g b (Memory.put g a v rest) = Memory.read g b rest := by
  unfold Memory.put
  split
  · rfl
  · rw [Memory.read_cons, if_neg (Ne.symm hab)]

theorem Memory.put_wf {low a : Nat} {v : Byte} {rest : Memory} (hl : low ≤ a) (ha : a < 4096)
    (h : Memory.wfFrom g (a + 1) rest = true) : Memory.wfFrom g low (Memory.put g a v rest) = true := by
  unfold Memory.put
  split
  · exact Memory.wfFrom_mono g (by omega) h
  · rename_i hv
    exact (Memory.wfFrom_cons g low a v rest).2 ⟨hl, ha, hv, h⟩

theorem Memory.write_wfFrom {a : Nat} (ha : a < 4096) (v : Byte) : ∀ {m : Memory} {low : Nat}, low ≤ a →
    Memory.wfFrom g low m = true → Memory.wfFrom g low (Memory.write g a v m) = true
  | [], _, hl, _ => Memory.put_wf g hl ha rfl
  | (b, w) :: rest, low, hl, h => by
    have h' := (Memory.wfFrom_cons g low b w rest).1 h
    unfold Memory.write
    split
    · exact Memory.put_wf g hl ha ((Memory.wfFrom_cons g (a + 1) b w rest).2 ⟨by omega, h'.2⟩)
    · split
      · subst_vars
        exact Memory.put_wf g hl ha h'.2.2.2
      · exact (Memory.wfFrom_cons g low b w _).2
          ⟨h'.1, h'.2.1, h'.2.2.1, Memory.write_wfFrom ha v (by omega) h'.2.2.2⟩

/-- A write keeps the canonical form. -/
theorem Memory.write_wf {a : Nat} (ha : a < 4096) (v : Byte) {m : Memory} (h : Memory.wf g m = true) :
    Memory.wf g (Memory.write g a v m) = true :=
  Memory.write_wfFrom g ha v (Nat.zero_le a) h

theorem Memory.read_write_same_from {a : Nat} (v : Byte) : ∀ {m : Memory} {low : Nat}, Memory.wfFrom g low m = true →
    Memory.read g a (Memory.write g a v m) = v
  | [], _, _ => Memory.put_read_same g rfl
  | (b, w) :: rest, low, h => by
    have h' := (Memory.wfFrom_cons g low b w rest).1 h
    unfold Memory.write
    split
    · exact Memory.put_read_same g ((Memory.wfFrom_cons g (a + 1) b w rest).2 ⟨by omega, h'.2⟩)
    · split
      · subst_vars
        exact Memory.put_read_same g h'.2.2.2
      · rw [Memory.read_cons, if_neg (by omega)]
        exact Memory.read_write_same_from v h'.2.2.2

/-- A read after a write to the same address gives the value written, in a canonical memory. -/
theorem Memory.read_write_same {a : Nat} (v : Byte) {m : Memory} (h : Memory.wf g m = true) :
    Memory.read g a (Memory.write g a v m) = v :=
  Memory.read_write_same_from g v h

/-- A write leaves every other address alone. -/
theorem Memory.read_write_other {a b : Nat} (hab : b ≠ a) (v : Byte) : ∀ m : Memory,
    Memory.read g b (Memory.write g a v m) = Memory.read g b m
  | [] => Memory.put_read_other g hab v []
  | (c, w) :: rest => by
    unfold Memory.write
    split
    · exact Memory.put_read_other g hab v _
    · split
      · subst_vars
        rw [Memory.put_read_other g hab, Memory.read_cons, if_neg (Ne.symm hab)]
      · rw [Memory.read_cons, Memory.read_cons, Memory.read_write_other hab v rest]

end Sys2Proof.Machine
end

