-- ==== Sys2Proof/Laws/Ops.lean ====
section
/-! SUPPORT. What each shared operation of Machine/Ops.lean, Operands.lean, Flags.lean and Boundary.lean does, said once. -/

namespace Sys2Proof.Machine

variable (s : State)

/-! ## General registers -/

@[simp] theorem State.reg_setReg_same (x : Nibble) (b : Byte) : (s.setReg x b).reg x = b := by
  simp [State.reg, State.setReg]

theorem State.reg_setReg_other {x r : Nibble} (h : r ≠ x) (b : Byte) : (s.setReg x b).reg r = s.reg r := by
  have : x.toNat ≠ r.toNat := fun e => h (BitVec.eq_of_toNat_eq e.symm)
  simp [State.reg, State.setReg, Vector.getElem_set_ne _ _ this]

theorem State.reg_setReg (x r : Nibble) (b : Byte) : (s.setReg x b).reg r = if r = x then b else s.reg r := by
  split
  · rename_i h
    rw [h, s.reg_setReg_same]
  · exact s.reg_setReg_other ‹_› b

/-- The flag writers (spec/42_alu.md R140): the result in VX, the flag in VF unless X = F, nothing else. -/
theorem State.reg_writeFlagged (x r : Nibble) (f b : Byte) :
    (s.writeFlagged x f b).reg r = if r = x then b else if r = vf then f else s.reg r := by
  simp only [State.writeFlagged, State.reg_advance, State.reg_setReg]

/-! ## Memory -/

theorem State.readByte_writeByte_same (h : Memory.wf s.cfg.glyphs s.mem = true) (a : Addr) (b : Byte) :
    (s.writeByte a b).readByte a = b :=
  Memory.read_write_same _ b h

theorem State.readByte_writeByte_other {a c : Addr} (h : c ≠ a) (b : Byte) :
    (s.writeByte a b).readByte c = s.readByte c :=
  Memory.read_write_other _ (fun e => h (BitVec.eq_of_toNat_eq e)) b _

theorem State.readByte_writeByte (h : Memory.wf s.cfg.glyphs s.mem = true) (a c : Addr) (b : Byte) :
    (s.writeByte a b).readByte c = if c = a then b else s.readByte c := by
  split
  · rename_i e
    rw [e, s.readByte_writeByte_same h]
  · exact s.readByte_writeByte_other ‹_› b

theorem State.writeByte_wf (h : Memory.wf s.cfg.glyphs s.mem = true) (a : Addr) (b : Byte) :
    Memory.wf (s.writeByte a b).cfg.glyphs (s.writeByte a b).mem = true :=
  Memory.write_wf _ a.isLt b h

/-- The effective addresses of a transfer of at most 4096 bytes are distinct (spec/20_memory.md R68). -/
theorem State.ea_injective {j k : Nat} (hj : j < 4096) (hk : k < 4096) (h : s.ea j = s.ea k) : j = k := by
  have := congrArg BitVec.toNat h
  simp only [State.ea, BitVec.toNat_ofNat] at this
  omega

/-! ## Stack (spec/10_state.md R28, R29) -/

theorem State.push_next {a : Addr} {k : State → State} {t : State} (h : s.push a k = .next t) :
    ∃ hsp : s.sp.val < 16, t = k { s with stack := s.stack.set s.sp.val a, sp := ⟨s.sp.val + 1, by omega⟩ } := by
  unfold State.push at h
  split at h
  · rename_i hsp
    injection h with h
    exact ⟨hsp, h.symm⟩
  · cases h

theorem State.push_room (h : s.sp.val < 16) (a : Addr) (k : State → State) :
    s.push a k = .next (k { s with stack := s.stack.set s.sp.val a, sp := ⟨s.sp.val + 1, by omega⟩ }) :=
  dif_pos h

theorem State.push_full (h : s.sp.val = 16) (a : Addr) (k : State → State) : s.push a k = .fault .callStackOverflow :=
  dif_neg (by omega)

theorem State.pop_next {k : Addr → State → State} {t : State} (h : s.pop k = .next t) :
    ∃ hsp : 0 < s.sp.val, t = k (s.stack[s.sp.val - 1]'(by omega)) { s with sp := ⟨s.sp.val - 1, by omega⟩ } := by
  unfold State.pop at h
  split at h
  · rename_i hsp
    injection h with h
    exact ⟨hsp, h.symm⟩
  · cases h

theorem State.pop_some (h : 0 < s.sp.val) (k : Addr → State → State) :
    s.pop k = .next (k (s.stack[s.sp.val - 1]'(by omega)) { s with sp := ⟨s.sp.val - 1, by omega⟩ }) :=
  dif_pos h

theorem State.pop_empty (h : s.sp.val = 0) (k : Addr → State → State) : s.pop k = .fault .returnStackUnderflow :=
  dif_neg (by omega)

/-! ## Register ranges (spec/43_index_memory.md R175, R176) -/

/-- A store of a register range writes memory only. -/
theorem State.storeRegs_mem_only : ∀ n, ∃ m, s.storeRegs n = { s with mem := m }
  | 0 => ⟨s.mem, rfl⟩
  | n + 1 => by
    obtain ⟨m, hm⟩ := State.storeRegs_mem_only n
    exact ⟨_, by rw [State.storeRegs, hm]; rfl⟩

theorem State.storeRegs_wf (h : Memory.wf s.cfg.glyphs s.mem = true) : ∀ n,
    Memory.wf (s.storeRegs n).cfg.glyphs (s.storeRegs n).mem = true
  | 0 => h
  | n + 1 => (s.storeRegs n).writeByte_wf (State.storeRegs_wf h n) _ _

theorem State.storeRegs_readByte_other {a : Addr} : ∀ {n : Nat}, (∀ k < n, a ≠ s.ea k) →
    (s.storeRegs n).readByte a = s.readByte a
  | 0, _ => rfl
  | n + 1, h => by
    rw [State.storeRegs, State.readByte_writeByte_other _ (h n (Nat.lt_succ_self n))]
    exact State.storeRegs_readByte_other fun k hk => h k (by omega)

theorem State.storeRegs_readByte (h : Memory.wf s.cfg.glyphs s.mem = true) : ∀ {n k : Nat}, n ≤ 4096 → k < n →
    (s.storeRegs n).readByte (s.ea k) = s.reg (BitVec.ofNat 4 k)
  | 0, _, _, hk => absurd hk (Nat.not_lt_zero _)
  | n + 1, k, hn, hk => by
    rw [State.storeRegs, State.readByte_writeByte _ (s.storeRegs_wf h n)]
    split
    · rename_i he
      rw [s.ea_injective (by omega) (by omega) he]
    · rename_i he
      have : k ≠ n := fun e => he (by rw [e])
      exact State.storeRegs_readByte h (by omega) (by omega)

/-- A load of a register range writes general registers only. -/
theorem State.loadRegs_v_only : ∀ n, ∃ v, s.loadRegs n = { s with v := v }
  | 0 => ⟨s.v, rfl⟩
  | n + 1 => by
    obtain ⟨v, hv⟩ := State.loadRegs_v_only n
    exact ⟨_, by rw [State.loadRegs, hv]; rfl⟩

theorem State.loadRegs_reg (r : Nibble) : ∀ {n : Nat}, n ≤ 16 →
    (s.loadRegs n).reg r = if r.toNat < n then s.readByte (s.ea r.toNat) else s.reg r
  | 0, _ => by simp [State.loadRegs]
  | n + 1, hn => by
    rw [State.loadRegs, State.reg_setReg, State.loadRegs_reg r (by omega)]
    by_cases hr : r.toNat = n
    · have : r = BitVec.ofNat 4 n := BitVec.eq_of_toNat_eq (by simp; omega)
      rw [if_pos this, if_pos (by omega), hr]
    · have : r ≠ BitVec.ofNat 4 n := fun e => hr (by rw [e]; simp; omega)
      rw [if_neg this]
      simp only [show (r.toNat < n + 1) = (r.toNat < n) from propext (by omega)]

/-- `LOADSTORE_I_ADVANCE` moves `I` only. -/
theorem State.advanceIndex_i_only (x : Nibble) : ∃ w, s.advanceIndex x = { s with i := w } := by
  unfold State.advanceIndex
  split
  · exact ⟨s.i, rfl⟩
  · exact ⟨_, rfl⟩

/-! ## Bytes of a program image (spec/20_memory.md R56) -/

theorem State.writeBytes_mem_only : ∀ (bs : List Byte) (s : State) (a : Addr), ∃ m, s.writeBytes a bs = { s with mem := m }
  | [], s, _ => ⟨s.mem, rfl⟩
  | b :: rest, s, a => by
    obtain ⟨m, hm⟩ := State.writeBytes_mem_only rest (s.writeByte a b) (a + 1)
    exact ⟨m, by rw [State.writeBytes, hm]; rfl⟩

theorem State.writeBytes_wf : ∀ (bs : List Byte) (s : State) (a : Addr), Memory.wf s.cfg.glyphs s.mem = true →
    Memory.wf (s.writeBytes a bs).cfg.glyphs (s.writeBytes a bs).mem = true
  | [], _, _, h => h
  | b :: rest, s, a, h => State.writeBytes_wf rest (s.writeByte a b) (a + 1) (s.writeByte_wf h a b)

/-- Bytes outside the written range read as before. -/
theorem State.writeBytes_readByte_other : ∀ (bs : List Byte) (s : State) (a c : Addr),
    (∀ j < bs.length, c ≠ a + BitVec.ofNat 12 j) → (s.writeBytes a bs).readByte c = s.readByte c
  | [], _, _, _, _ => rfl
  | b :: rest, s, a, c, h => by
    rw [State.writeBytes, State.writeBytes_readByte_other rest (s.writeByte a b) (a + 1) c fun j hj => ?_]
    · exact s.readByte_writeByte_other (by simpa using h 0 (by simp)) b
    · have := h (j + 1) (by simpa using hj)
      rwa [Nat.add_comm, BitVec.ofNat_add, ← BitVec.add_assoc] at this

/-- The `j`-th byte written is read back, for at most 4096 bytes. -/
theorem State.writeBytes_readByte : ∀ (bs : List Byte) (s : State) (a : Addr), Memory.wf s.cfg.glyphs s.mem = true →
    bs.length ≤ 4096 → ∀ (j : Nat) (h : j < bs.length), (s.writeBytes a bs).readByte (a + BitVec.ofNat 12 j) = bs[j]
  | [], _, _, _, _, _, h => absurd h (Nat.not_lt_zero _)
  | b :: rest, s, a, hw, hl, 0, _ => by
    simp only [List.length_cons] at hl
    rw [State.writeBytes, State.writeBytes_readByte_other rest _ _ _ fun j hj e => ?_]
    · simpa using s.readByte_writeByte_same hw a b
    · have := congrArg BitVec.toNat e
      simp [BitVec.toNat_add] at this
      have := a.isLt
      omega
  | b :: rest, s, a, hw, hl, j + 1, h => by
    simp only [List.length_cons] at hl h
    have := State.writeBytes_readByte rest (s.writeByte a b) (a + 1) (s.writeByte_wf hw a b) (by omega) j (by omega)
    have e : a + BitVec.ofNat 12 (j + 1) = a + 1 + BitVec.ofNat 12 j := by
      rw [Nat.add_comm j 1, BitVec.ofNat_add, ← BitVec.add_assoc]
      rfl
    simpa [State.writeBytes, e] using this

/-! ## Keys (spec/45_keypad_timers.md R213, spec/46_host_operations.md R235) -/

theorem State.keyDown_setKey (k j : Nibble) (p : Bool) :
    (s.setKey k p).keyDown j = if j = k then p else s.keyDown j := by
  have hj := j.isLt
  have hk := k.isLt
  have e : (j = k) ↔ j.toNat = k.toNat := BitVec.toNat_inj.symm
  have e' : (j.toNat = k.toNat) ↔ (k.toNat = j.toNat) := eq_comm
  cases p <;> by_cases h : j = k <;>
    simp_all [State.setKey, State.keyDown]

theorem lowestKeyFrom_none {pressed : KeySet} : ∀ {fuel k : Nat}, lowestKeyFrom pressed k fuel = none →
    ∀ j, k ≤ j → j < k + fuel → pressed.getLsbD j = false
  | 0, _, _, _, _, _ => by omega
  | fuel + 1, k, h, j, hj, hj' => by
    unfold lowestKeyFrom at h
    split at h
    · cases h
    · rcases Nat.lt_or_eq_of_le hj with hlt | rfl
      · exact lowestKeyFrom_none h j hlt (by omega)
      · rename_i hb
        simpa using hb

theorem lowestKeyFrom_some {pressed : KeySet} {r : Nibble} : ∀ {fuel k : Nat}, k + fuel ≤ 16 →
    lowestKeyFrom pressed k fuel = some r →
    pressed.getLsbD r.toNat = true ∧ ∀ j, k ≤ j → j < r.toNat → pressed.getLsbD j = false
  | 0, _, _, h => by cases h
  | fuel + 1, k, hk, h => by
    unfold lowestKeyFrom at h
    split at h
    · injection h with h
      subst h
      have : (BitVec.ofNat 4 k).toNat = k := by simp; omega
      rw [this]
      exact ⟨‹_›, fun j h1 h2 => by omega⟩
    · obtain ⟨h1, h2⟩ := lowestKeyFrom_some (by omega) h
      refine ⟨h1, fun j hj hj' => ?_⟩
      rcases Nat.lt_or_eq_of_le hj with hlt | rfl
      · exact h2 j hlt hj'
      · rename_i hb
        simpa using hb

theorem chosenKey_pressed {pressed : KeySet} {k : Nibble} : ∀ {cs : List KeyChoice}, chosenKey pressed cs = some k →
    pressed.getLsbD k.toNat = true
  | [], h => by cases h
  | c :: rest, h => by
    unfold chosenKey at h
    split at h
    · rename_i hc
      injection h with h
      exact h ▸ hc.2
    · exact chosenKey_pressed h

/-- `KEY_SELECT` answers a member of the pressed set. -/
theorem State.selectKey_some {k : Nibble} (h : s.selectKey = some k) : s.keyDown k = true := by
  unfold State.selectKey at h
  rcases Option.or_eq_some_iff.1 h with h | ⟨-, h⟩
  · exact chosenKey_pressed h
  · exact (lowestKeyFrom_some (by omega) h).1

/-- `KEY_SELECT` answers nothing exactly when no key is down. -/
theorem State.selectKey_none : s.selectKey = none ↔ ∀ k, s.keyDown k = false := by
  constructor
  · intro h k
    rw [State.selectKey, Option.or_eq_none_iff] at h
    exact lowestKeyFrom_none h.2 k.toNat (Nat.zero_le _) (by have := k.isLt; omega)
  · intro h
    cases hk : s.selectKey with
    | none => rfl
    | some k => simpa [s.selectKey_some hk] using h k

/-! ## Timers (spec/60_exceptions.md R263) -/

theorem tickByte_toNat (b : Byte) : (tickByte b).toNat = b.toNat - 1 := by
  unfold tickByte
  split
  · subst_vars; rfl
  · rename_i h
    have h0 : b.toNat ≠ 0 := fun e => h (BitVec.eq_of_toNat_eq e)
    have := b.isLt
    rw [BitVec.toNat_sub]
    simp
    omega

end Sys2Proof.Machine
end

