-- ==== Sys2Proof/Laws/Canvas.lean ====
section
/-! SUPPORT. Drawing, said once (spec/44_display.md R192): which cells a sprite row and a sprite flip, and when they collide. -/

namespace Sys2Proof.Machine

/-! ## One cell -/

theorem Framebuffer.cell_flip (fb : Framebuffer) (x x' : Column) (y y' : RowNumber) :
    Framebuffer.cell (Framebuffer.flip fb x y) x' y' =
      (Framebuffer.cell fb x' y' ^^ (decide (x' = x) && decide (y' = y))) := by
  have hx' := x'.isLt
  have ex : (x' = x) ↔ (x.toNat = x'.toNat) := by rw [eq_comm]; exact BitVec.toNat_inj.symm
  by_cases hy : y' = y
  · subst hy
    simp [Framebuffer.cell, Framebuffer.flip, BitVec.getElem_twoPow, ex, hx', eq_comm]
  · have : y.toNat ≠ y'.toNat := fun e => hy (BitVec.eq_of_toNat_eq e.symm)
    simp [Framebuffer.cell, Framebuffer.flip, Vector.getElem_set_ne _ _ this, hy]

@[simp] theorem Framebuffer.cell_clear (x : Column) (y : RowNumber) : Framebuffer.cell Framebuffer.clear x y = false := by
  simp [Framebuffer.cell, Framebuffer.clear]

theorem Canvas.plot_cell (c : Canvas) (bit : Bool) (x x' : Column) (y y' : RowNumber) :
    Framebuffer.cell (c.plot bit x y).fb x' y' =
      (Framebuffer.cell c.fb x' y' ^^ (bit && (decide (x' = x) && decide (y' = y)))) := by
  cases bit <;> simp [Canvas.plot, Framebuffer.cell_flip]

theorem Canvas.plot_hit (c : Canvas) (bit : Bool) (x : Column) (y : RowNumber) :
    (c.plot bit x y).hit = (c.hit || (bit && Framebuffer.cell c.fb x y)) := by
  cases bit <;> simp [Canvas.plot]

/-! ## One sprite row -/

/-- A column is `x0 + n` exactly when it lies `n` to the right of `x0`. -/
theorem column_eq_iff (x x0 : Column) {n : Nat} (hn : n < 64) : x = x0 + BitVec.ofNat 6 n ↔ (x - x0).toNat = n := by
  have h1 := x.isLt; have h2 := x0.isLt
  rw [← BitVec.toNat_inj, BitVec.toNat_add, BitVec.toNat_sub, BitVec.toNat_ofNat]
  omega

/-- A row is `y0 + n` exactly when it lies `n` below `y0`. -/
theorem rowNumber_eq_iff (y y0 : RowNumber) {n : Nat} (hn : n < 32) : y = y0 + BitVec.ofNat 5 n ↔ (y - y0).toNat = n := by
  have h1 := y.isLt; have h2 := y0.isLt
  rw [← BitVec.toNat_inj, BitVec.toNat_add, BitVec.toNat_sub, BitVec.toNat_ofNat]
  omega

/-- A cell after the first `n` pixels of a row: flipped where the row is the drawn one and the sprite bit is 1. -/
theorem Canvas.drawRow_cell (c : Canvas) (b : Byte) (x0 x : Column) (y y' : RowNumber) {n : Nat} (hn : n ≤ 8) :
    Framebuffer.cell (c.drawRow b x0 y n).fb x y' =
      (Framebuffer.cell c.fb x y' ^^
        (decide (y' = y) && (decide ((x - x0).toNat < n) && b.getLsbD (7 - (x - x0).toNat)))) := by
  induction n with
  | zero => simp [Canvas.drawRow]
  | succ n ih =>
    rw [Canvas.drawRow, Canvas.plot_cell, ih (by omega)]
    have hc := column_eq_iff x x0 (n := n) (by omega)
    simp only [hc]
    generalize (x - x0).toNat = m
    by_cases h : m = n
    · simp [h, Bool.and_comm]
    · have : (m < n + 1) ↔ (m < n) := by omega
      simp only [h, this, decide_false, Bool.false_and, Bool.and_false, Bool.xor_false]

/-- The row collides exactly when a 1 bit of it lies on a lit cell (the cells are distinct, so none is read after a flip). -/
theorem Canvas.drawRow_hit (c : Canvas) (b : Byte) (x0 : Column) (y : RowNumber) {n : Nat} (hn : n ≤ 8) :
    (c.drawRow b x0 y n).hit = true ↔ c.hit = true ∨
      ∃ d < n, b.getLsbD (7 - d) = true ∧ Framebuffer.cell c.fb (x0 + BitVec.ofNat 6 d) y = true := by
  induction n with
  | zero => simp [Canvas.drawRow]
  | succ n ih =>
    have hcol : (x0 + BitVec.ofNat 6 n - x0).toNat = n := (column_eq_iff _ x0 (by omega)).1 rfl
    rw [Canvas.drawRow, Canvas.plot_hit, Canvas.drawRow_cell c b x0 _ y y (by omega), hcol]
    simp only [Nat.lt_irrefl, decide_false, Bool.false_and, Bool.and_false, Bool.xor_false, Bool.or_eq_true,
      Bool.and_eq_true, ih (by omega)]
    constructor
    · rintro ((h | ⟨d, hd, h⟩) | h)
      · exact .inl h
      · exact .inr ⟨d, by omega, h⟩
      · exact .inr ⟨n, by omega, h⟩
    · rintro (h | ⟨d, hd, h⟩)
      · exact .inl (.inl h)
      · rcases Nat.lt_succ_iff_lt_or_eq.1 hd with hd | rfl
        · exact .inl (.inr ⟨d, hd, h⟩)
        · exact .inr h

/-! ## A sprite -/

/-- Whether the sprite drawn at (x0, y0) with `n` rows has a 1 bit on the cell (x, y): `r` rows below and `c` columns to the
right, both wrapped. -/
theorem Canvas.drawRows_cell (c : Canvas) (rowByte : Nat → Byte) (x0 x : Column) (y0 y : RowNumber) {n : Nat} (hn : n ≤ 32) :
    Framebuffer.cell (c.drawRows rowByte x0 y0 n).fb x y =
      (Framebuffer.cell c.fb x y ^^ (decide ((y - y0).toNat < n) &&
        (decide ((x - x0).toNat < 8) && (rowByte (y - y0).toNat).getLsbD (7 - (x - x0).toNat)))) := by
  induction n with
  | zero => simp [Canvas.drawRows]
  | succ n ih =>
    rw [Canvas.drawRows, Canvas.drawRow_cell _ _ _ _ _ _ (Nat.le_refl 8), ih (by omega)]
    have hr := rowNumber_eq_iff y y0 (n := n) (by omega)
    simp only [hr]
    generalize (y - y0).toNat = m
    by_cases h : m = n
    · simp [h]
    · have : (m < n + 1) ↔ (m < n) := by omega
      simp only [h, this, decide_false, Bool.false_and, Bool.xor_false]

/-- The sprite collides exactly when a 1 bit of it lies on a cell that was lit before the draw. -/
theorem Canvas.drawRows_hit (c : Canvas) (rowByte : Nat → Byte) (x0 : Column) (y0 : RowNumber) {n : Nat} (hn : n ≤ 32) :
    (c.drawRows rowByte x0 y0 n).hit = true ↔ c.hit = true ∨
      ∃ r < n, ∃ d < 8, (rowByte r).getLsbD (7 - d) = true ∧
        Framebuffer.cell c.fb (x0 + BitVec.ofNat 6 d) (y0 + BitVec.ofNat 5 r) = true := by
  induction n with
  | zero => simp [Canvas.drawRows]
  | succ n ih =>
    have hrow : (y0 + BitVec.ofNat 5 n - y0).toNat = n := (rowNumber_eq_iff _ y0 (by omega)).1 rfl
    rw [Canvas.drawRows, Canvas.drawRow_hit _ _ _ _ (Nat.le_refl 8), ih (by omega)]
    simp only [Canvas.drawRows_cell c rowByte x0 _ y0 _ (show n ≤ 32 by omega), hrow, Nat.lt_irrefl, decide_false,
      Bool.false_and, Bool.xor_false]
    constructor
    · rintro ((h | ⟨r, hr, h⟩) | h)
      · exact .inl h
      · exact .inr ⟨r, by omega, h⟩
      · exact .inr ⟨n, by omega, h⟩
    · rintro (h | ⟨r, hr, h⟩)
      · exact .inl (.inl h)
      · rcases Nat.lt_succ_iff_lt_or_eq.1 hr with hr | rfl
        · exact .inl (.inr ⟨r, hr, h⟩)
        · exact .inr h

end Sys2Proof.Machine
end

