-- ==== Sys2Proof/Laws/Decode.lean ====
section
/-! SUPPORT. The fields of a word written as its digits (spec/30_encoding.md R81, R82), one lemma per format and field. -/

namespace Sys2Proof

variable (c x y n : Nibble) (nn : Byte) (nnn : Addr)

/-! ## ADDR: the category and a 12-bit address -/

theorem fieldC_addr : fieldC (c ++ nnn) = c := BitVec.extractLsb'_append_eq_left

theorem fieldNNN_addr : fieldNNN (c ++ nnn) = nnn := BitVec.extractLsb'_append_eq_right

/-! ## REG_IMM and REG_SUB: the category, a register and a byte -/

theorem fieldC_regImm : fieldC (c ++ x ++ nn) = c :=
  (BitVec.extractLsb'_append_eq_of_le (w := 8) (start := 12) (by decide)).trans BitVec.extractLsb'_append_eq_left

theorem fieldX_regImm : fieldX (c ++ x ++ nn) = x :=
  (BitVec.extractLsb'_append_eq_of_le (w := 8) (start := 8) (by decide)).trans BitVec.extractLsb'_append_eq_right

theorem fieldNN_regImm : fieldNN (c ++ x ++ nn) = nn := BitVec.extractLsb'_append_eq_right

/-! ## REG_REG and SPRITE: the category and three digits -/

theorem fieldC_digits : fieldC (c ++ x ++ y ++ n) = c :=
  ((BitVec.extractLsb'_append_eq_of_le (w := 4) (start := 12) (by decide)).trans
    (BitVec.extractLsb'_append_eq_of_le (w := 4) (start := 8) (by decide))).trans BitVec.extractLsb'_append_eq_left

theorem fieldX_digits : fieldX (c ++ x ++ y ++ n) = x :=
  ((BitVec.extractLsb'_append_eq_of_le (w := 4) (start := 8) (by decide)).trans
    (BitVec.extractLsb'_append_eq_of_le (w := 4) (start := 4) (by decide))).trans BitVec.extractLsb'_append_eq_right

theorem fieldY_digits : fieldY (c ++ x ++ y ++ n) = y :=
  (BitVec.extractLsb'_append_eq_of_le (w := 4) (start := 4) (by decide)).trans BitVec.extractLsb'_append_eq_right

theorem fieldN_digits : fieldN (c ++ x ++ y ++ n) = n := BitVec.extractLsb'_append_eq_right

/-! ## A word and its two bytes (spec/20_memory.md R53) -/

theorem wordOfBytes_extract (op : Word) : wordOfBytes (op.extractLsb' 8 8) (op.extractLsb' 0 8) = op := by
  have e : (op.extractLsb' 8 8 ++ op.extractLsb' 0 8 : BitVec (8 + 8)) = op.extractLsb' 0 (8 + 8) :=
    BitVec.extractLsb'_append_extractLsb'_eq_extractLsb' rfl
  exact e.trans BitVec.extractLsb'_eq_self

theorem decode_bytesOfWord (op : Word) (rest : List Byte) :
    decode (bytesOfWord op ++ rest) = (decodeWord op).map (·, rest) := by
  simp [decode, bytesOfWord, wordOfBytes_extract]

end Sys2Proof
end

