-- ==== Sys2Proof/Laws/PerInstr.lean ====
section
/-! SUPPORT. The family EncodingRow: every instruction's word lies in its row of spec/30_encoding.md R84, one lemma per
constructor. -/

namespace Sys2Proof.Laws

/-- The word of `i` has the fixed bits of the row of `i` (R84: `op & mask = match`), and that row is one of the table. -/
def EncodingRow.Statement (i : Instr) : Prop := encode i &&& i.row.mask = i.row.value ∧ i.row ∈ opcodeTable

/-! ## Masking digits -/

theorem append_and_append {w v : Nat} (a b : BitVec w) (c d : BitVec v) :
    (a ++ c) &&& (b ++ d) = (a &&& b) ++ (c &&& d) :=
  BitVec.and_append

theorem nibble_and_ones (c : Nibble) : c &&& 0xF#4 = c := BitVec.and_allOnes

theorem byte_and_ones (c : Byte) : c &&& 0xFF#8 = c := BitVec.and_allOnes

theorem addr_and_mask (c : Nibble) (nnn : Addr) : (c ++ nnn : Word) &&& 0xF000#16 = c ++ 0#12 := by
  have h : (c ++ nnn) &&& (0xF#4 ++ 0#12) = c ++ 0#12 := by
    simp only [append_and_append, nibble_and_ones, BitVec.and_zero]
  exact h

theorem regImm_and_mask (c x : Nibble) (nn : Byte) : (c ++ x ++ nn : Word) &&& 0xF000#16 = c ++ 0#4 ++ 0#8 := by
  have h : (c ++ x ++ nn) &&& (0xF#4 ++ 0#4 ++ 0#8) = c ++ 0#4 ++ 0#8 := by
    simp only [append_and_append, nibble_and_ones, BitVec.and_zero]
  exact h

theorem regSub_and_mask (c x : Nibble) (nn : Byte) : (c ++ x ++ nn : Word) &&& 0xF0FF#16 = c ++ 0#4 ++ nn := by
  have h : (c ++ x ++ nn) &&& (0xF#4 ++ 0#4 ++ 0xFF#8) = c ++ 0#4 ++ nn := by
    simp only [append_and_append, nibble_and_ones, byte_and_ones, BitVec.and_zero]
  exact h

theorem regReg_and_mask (c x y n : Nibble) : (c ++ x ++ y ++ n : Word) &&& 0xF00F#16 = c ++ 0#4 ++ 0#4 ++ n := by
  have h : (c ++ x ++ y ++ n) &&& (0xF#4 ++ 0#4 ++ 0#4 ++ 0xF#4) = c ++ 0#4 ++ 0#4 ++ n := by
    simp only [append_and_append, nibble_and_ones, BitVec.and_zero]
  exact h

theorem sprite_and_mask (c x y n : Nibble) : (c ++ x ++ y ++ n : Word) &&& 0xF000#16 = c ++ 0#4 ++ 0#4 ++ 0#4 := by
  have h : (c ++ x ++ y ++ n) &&& (0xF#4 ++ 0#4 ++ 0#4 ++ 0#4) = c ++ 0#4 ++ 0#4 ++ 0#4 := by
    simp only [append_and_append, nibble_and_ones, BitVec.and_zero]
  exact h

/-! ## One lemma per constructor -/

theorem EncodingRow.op00E0 : EncodingRow.Statement .op00E0 := ⟨rfl, by simp [Instr.row, opcodeTable]⟩

theorem EncodingRow.op00EE : EncodingRow.Statement .op00EE := ⟨rfl, by simp [Instr.row, opcodeTable]⟩

theorem EncodingRow.op1NNN (nnn : Addr) : EncodingRow.Statement (.op1NNN nnn) := ⟨addr_and_mask _ nnn, by simp [Instr.row, opcodeTable]⟩

theorem EncodingRow.op2NNN (nnn : Addr) : EncodingRow.Statement (.op2NNN nnn) := ⟨addr_and_mask _ nnn, by simp [Instr.row, opcodeTable]⟩

theorem EncodingRow.op3XNN (x : Nibble) (nn : Byte) : EncodingRow.Statement (.op3XNN x nn) := ⟨regImm_and_mask _ x nn, by simp [Instr.row, opcodeTable]⟩

theorem EncodingRow.op4XNN (x : Nibble) (nn : Byte) : EncodingRow.Statement (.op4XNN x nn) := ⟨regImm_and_mask _ x nn, by simp [Instr.row, opcodeTable]⟩

theorem EncodingRow.op5XY0 (x y : Nibble) : EncodingRow.Statement (.op5XY0 x y) := ⟨regReg_and_mask _ x y _, by simp [Instr.row, opcodeTable]⟩

theorem EncodingRow.op6XNN (x : Nibble) (nn : Byte) : EncodingRow.Statement (.op6XNN x nn) := ⟨regImm_and_mask _ x nn, by simp [Instr.row, opcodeTable]⟩

theorem EncodingRow.op7XNN (x : Nibble) (nn : Byte) : EncodingRow.Statement (.op7XNN x nn) := ⟨regImm_and_mask _ x nn, by simp [Instr.row, opcodeTable]⟩

theorem EncodingRow.op8XY0 (x y : Nibble) : EncodingRow.Statement (.op8XY0 x y) := ⟨regReg_and_mask _ x y _, by simp [Instr.row, opcodeTable]⟩

theorem EncodingRow.op8XY1 (x y : Nibble) : EncodingRow.Statement (.op8XY1 x y) := ⟨regReg_and_mask _ x y _, by simp [Instr.row, opcodeTable]⟩

theorem EncodingRow.op8XY2 (x y : Nibble) : EncodingRow.Statement (.op8XY2 x y) := ⟨regReg_and_mask _ x y _, by simp [Instr.row, opcodeTable]⟩

theorem EncodingRow.op8XY3 (x y : Nibble) : EncodingRow.Statement (.op8XY3 x y) := ⟨regReg_and_mask _ x y _, by simp [Instr.row, opcodeTable]⟩

theorem EncodingRow.op8XY4 (x y : Nibble) : EncodingRow.Statement (.op8XY4 x y) := ⟨regReg_and_mask _ x y _, by simp [Instr.row, opcodeTable]⟩

theorem EncodingRow.op8XY5 (x y : Nibble) : EncodingRow.Statement (.op8XY5 x y) := ⟨regReg_and_mask _ x y _, by simp [Instr.row, opcodeTable]⟩

theorem EncodingRow.op8XY6 (x y : Nibble) : EncodingRow.Statement (.op8XY6 x y) := ⟨regReg_and_mask _ x y _, by simp [Instr.row, opcodeTable]⟩

theorem EncodingRow.op8XY7 (x y : Nibble) : EncodingRow.Statement (.op8XY7 x y) := ⟨regReg_and_mask _ x y _, by simp [Instr.row, opcodeTable]⟩

theorem EncodingRow.op8XYE (x y : Nibble) : EncodingRow.Statement (.op8XYE x y) := ⟨regReg_and_mask _ x y _, by simp [Instr.row, opcodeTable]⟩

theorem EncodingRow.op9XY0 (x y : Nibble) : EncodingRow.Statement (.op9XY0 x y) := ⟨regReg_and_mask _ x y _, by simp [Instr.row, opcodeTable]⟩

theorem EncodingRow.opANNN (nnn : Addr) : EncodingRow.Statement (.opANNN nnn) := ⟨addr_and_mask _ nnn, by simp [Instr.row, opcodeTable]⟩

theorem EncodingRow.opBNNN (nnn : Addr) : EncodingRow.Statement (.opBNNN nnn) := ⟨addr_and_mask _ nnn, by simp [Instr.row, opcodeTable]⟩

theorem EncodingRow.opCXNN (x : Nibble) (nn : Byte) : EncodingRow.Statement (.opCXNN x nn) := ⟨regImm_and_mask _ x nn, by simp [Instr.row, opcodeTable]⟩

theorem EncodingRow.opDXYN (x y n : Nibble) : EncodingRow.Statement (.opDXYN x y n) := ⟨sprite_and_mask _ x y n, by simp [Instr.row, opcodeTable]⟩

theorem EncodingRow.opEX9E (x : Nibble) : EncodingRow.Statement (.opEX9E x) := ⟨regSub_and_mask _ x _, by simp [Instr.row, opcodeTable]⟩

theorem EncodingRow.opEXA1 (x : Nibble) : EncodingRow.Statement (.opEXA1 x) := ⟨regSub_and_mask _ x _, by simp [Instr.row, opcodeTable]⟩

theorem EncodingRow.opFX07 (x : Nibble) : EncodingRow.Statement (.opFX07 x) := ⟨regSub_and_mask _ x _, by simp [Instr.row, opcodeTable]⟩

theorem EncodingRow.opFX0A (x : Nibble) : EncodingRow.Statement (.opFX0A x) := ⟨regSub_and_mask _ x _, by simp [Instr.row, opcodeTable]⟩

theorem EncodingRow.opFX15 (x : Nibble) : EncodingRow.Statement (.opFX15 x) := ⟨regSub_and_mask _ x _, by simp [Instr.row, opcodeTable]⟩

theorem EncodingRow.opFX18 (x : Nibble) : EncodingRow.Statement (.opFX18 x) := ⟨regSub_and_mask _ x _, by simp [Instr.row, opcodeTable]⟩

theorem EncodingRow.opFX1E (x : Nibble) : EncodingRow.Statement (.opFX1E x) := ⟨regSub_and_mask _ x _, by simp [Instr.row, opcodeTable]⟩

theorem EncodingRow.opFX29 (x : Nibble) : EncodingRow.Statement (.opFX29 x) := ⟨regSub_and_mask _ x _, by simp [Instr.row, opcodeTable]⟩

theorem EncodingRow.opFX33 (x : Nibble) : EncodingRow.Statement (.opFX33 x) := ⟨regSub_and_mask _ x _, by simp [Instr.row, opcodeTable]⟩

theorem EncodingRow.opFX55 (x : Nibble) : EncodingRow.Statement (.opFX55 x) := ⟨regSub_and_mask _ x _, by simp [Instr.row, opcodeTable]⟩

theorem EncodingRow.opFX65 (x : Nibble) : EncodingRow.Statement (.opFX65 x) := ⟨regSub_and_mask _ x _, by simp [Instr.row, opcodeTable]⟩

end Sys2Proof.Laws
end

