-- ==== Sys2Proof/Laws/Step.lean ====
section
/-! SUPPORT. What a step and an operation can answer, said once (spec/40_cycle.md R100, spec/60_exceptions.md R254). -/

namespace Sys2Proof.Machine

variable {s t : State}

/-- A step that answers a next state executed the instruction its word decodes to. -/
theorem step_next (h : step s = .next t) : ∃ i, decodeWord s.fetchWord = .ok i ∧ exec i s = .next t := by
  unfold step at h
  split at h
  · exact ⟨_, ‹_›, h⟩
  · cases h

/-- A step that faults found no instruction, or executed one that faults. -/
theorem step_fault {e : Fault} (h : step s = .fault e) :
    ((∃ d, decodeWord s.fetchWord = .error d) ∧ e = .unknownInstruction) ∨
      ∃ i, decodeWord s.fetchWord = .ok i ∧ exec i s = .fault e := by
  unfold step at h
  split at h
  · exact .inr ⟨_, ‹_›, h⟩
  · injection h with h
    exact .inl ⟨⟨_, ‹_›⟩, h.symm⟩

@[simp] theorem settle_next (s t : State) (r : Response) : settle s r (.next t) = (t, r) := rfl

@[simp] theorem settle_fault (s : State) (r : Response) (e : Fault) : settle s r (.fault e) = (s, .err e) := rfl

@[simp] theorem settle_refused (s : State) (r : Response) (e : Refusal) : settle s r (.refused e) = (s, .refused e) := rfl

/-- The state after an outcome is the next state or, where the operation raised, the state before. -/
theorem settle_state (s : State) (r : Response) (o : Host.Outcome State Fault Refusal) :
    o = .next (settle s r o).1 ∨ (settle s r o).1 = s := by
  cases o with
  | next t => exact .inl rfl
  | fault e => exact .inr rfl
  | refused e => exact .inr rfl

@[simp] theorem runOps_nil (s : State) : runOps [] s = s := rfl

@[simp] theorem runOps_cons (op : Operation) (rest : List Operation) (s : State) :
    runOps (op :: rest) s = runOps rest (operate op s).1 := rfl

theorem runOps_append : ∀ (a b : List Operation) (s : State), runOps (a ++ b) s = runOps b (runOps a s)
  | [], _, _ => rfl
  | op :: rest, b, s => runOps_append rest b (operate op s).1

/-- A property that every operation keeps holds after every run from a state that has it. -/
theorem runOps_induction {P : State → Prop} (hop : ∀ op s, P s → P (operate op s).1) :
    ∀ (ops : List Operation) (s : State), P s → P (runOps ops s)
  | [], _, h => h
  | op :: rest, s, h => runOps_induction hop rest _ (hop op s h)

theorem addr_ne_succ (a : Addr) : a ≠ a + 1 := by
  intro e
  have := congrArg BitVec.toNat e
  have h := a.isLt
  rw [BitVec.toNat_add] at this
  simp at this
  omega

/-! ## What an operation can do -/

/-- `Load` that succeeds wrote an image that fits. -/
theorem loadImage_next {bytes : List Byte} (h : loadImage bytes s = .next t) :
    t = s.writeBytes 0x200 bytes ∧ bytes.length ≤ 3584 := by
  unfold loadImage at h
  split at h
  · rename_i hl
    injection h with h
    exact ⟨h.symm, of_decide_eq_true hl⟩
  · cases h

/-- The state after an operation, said once: as it was, or the effect of the operation's own kind. -/
theorem operate_cases (op : Operation) (s : State) :
    (operate op s).1 = s ∨
      (∃ bytes, op = .load bytes ∧ bytes.length ≤ 3584 ∧ (operate op s).1 = s.writeBytes 0x200 bytes) ∨
      (op = .step ∧ step s = .next (operate op s).1) ∨
      (op = .tickTimers ∧ (operate op s).1 = s.tickTimers) ∨
      (∃ k p, op = .setKey k p ∧ (operate op s).1 = s.setKey k p) ∨
      (op = .reset ∧ (operate op s).1 = s.resetAgain) := by
  cases op with
  | load bytes =>
    rcases settle_state s .done (loadImage bytes s) with h | h
    · exact .inr (.inl ⟨bytes, rfl, (loadImage_next h).2, (loadImage_next h).1⟩)
    · exact .inl h
  | step =>
    rcases settle_state s (.stepped (stepOutcome s)) (step s) with h | h
    · exact .inr (.inr (.inl ⟨rfl, h⟩))
    · exact .inl h
  | tickTimers => exact .inr (.inr (.inr (.inl ⟨rfl, rfl⟩)))
  | readFramebuffer => exact .inl rfl
  | shouldBeep => exact .inl rfl
  | setKey k p => exact .inr (.inr (.inr (.inr (.inl ⟨k, p, rfl, rfl⟩))))
  | reset => exact .inr (.inr (.inr (.inr (.inr ⟨rfl, rfl⟩))))

@[simp] theorem operateAt_length (op : Operation) (n : Nat) (cores : List State) :
    (operateAt op n cores).length = cores.length := List.length_modify ..

/-! ## What an instruction can write (spec/40_cycle.md R109) -/

/-- Said once for every instruction: no key, no parameter; and for every other component the instructions that write it. -/
theorem exec_writes {i : Instr} (h : exec i s = .next t) :
    t.keys = s.keys ∧ t.cfg = s.cfg ∧
    (t.dt = s.dt ∨ ∃ x, i = .opFX15 x ∧ t.dt = s.reg x) ∧
    (t.st = s.st ∨ ∃ x, i = .opFX18 x ∧ t.st = s.reg x) ∧
    (t.mem = s.mem ∨ (∃ x, i = .opFX33 x) ∨ ∃ x, i = .opFX55 x) ∧
    (t.i = s.i ∨ (∃ n, i = .opANNN n) ∨ (∃ x, i = .opFX1E x ∨ i = .opFX29 x) ∨
      (s.cfg.loadStoreAdvance = .xPlus1 ∧ ∃ x, i = .opFX55 x ∨ i = .opFX65 x)) ∧
    (t.stack = s.stack ∨ ∃ n, i = .op2NNN n) ∧
    (t.sp = s.sp ∨ i = .op00EE ∨ ∃ n, i = .op2NNN n) ∧
    (t.fb = s.fb ∨ i = .op00E0 ∨ ∃ x y n, i = .opDXYN x y n) ∧
    (t.draws = s.draws ∨ ∃ x nn, i = .opCXNN x nn) := by
  cases i
  case op00EE =>
    obtain ⟨_, rfl⟩ := s.pop_next (show s.pop (fun a t => t.setPc (a + 2)) = _ from h)
    simp [State.setPc]
  case op2NNN n =>
    obtain ⟨_, rfl⟩ := s.push_next (show s.push s.pc (fun t => t.setPc n) = _ from h)
    simp [State.setPc]
  case opFX0A x =>
    simp only [exec, execFX0A] at h
    split at h <;> cases h <;> simp
  case opFX55 x =>
    obtain ⟨m, hm⟩ := s.storeRegs_mem_only (x.toNat + 1)
    have hi : ((s.storeRegs (x.toNat + 1)).advanceIndex x).i = s.i ∨ s.cfg.loadStoreAdvance = .xPlus1 := by
      rw [hm, State.advanceIndex]
      cases s.cfg.loadStoreAdvance <;> simp
    obtain ⟨w, hw⟩ := (s.storeRegs (x.toNat + 1)).advanceIndex_i_only x
    cases h
    rw [hw, hm] at hi ⊢
    simpa using hi
  case opFX65 x =>
    obtain ⟨v, hv⟩ := s.loadRegs_v_only (x.toNat + 1)
    have hi : ((s.loadRegs (x.toNat + 1)).advanceIndex x).i = s.i ∨ s.cfg.loadStoreAdvance = .xPlus1 := by
      rw [hv, State.advanceIndex]
      cases s.cfg.loadStoreAdvance <;> simp
    obtain ⟨w, hw⟩ := (s.loadRegs (x.toNat + 1)).advanceIndex_i_only x
    cases h
    rw [hw, hv] at hi ⊢
    simpa using hi
  all_goals
    cases h
    simp

/-- A word placed at the program counter is the word the next step fetches. -/
theorem State.fetchWord_storeAtPc (h : Memory.wf s.cfg.glyphs s.mem = true) (op : Word) : (s.storeAtPc op).fetchWord = op := by
  have h1 := s.writeByte_wf h s.pc (op.extractLsb' 8 8)
  have ehi : (s.storeAtPc op).readByte s.pc = op.extractLsb' 8 8 := by
    rw [State.storeAtPc, State.readByte_writeByte_other _ (addr_ne_succ s.pc), s.readByte_writeByte_same h]
  have elo : (s.storeAtPc op).readByte (s.pc + 1) = op.extractLsb' 0 8 := State.readByte_writeByte_same _ h1 _ _
  have epc : (s.storeAtPc op).pc = s.pc := rfl
  rw [State.fetchWord, epc, ehi, elo, wordOfBytes_extract]

end Sys2Proof.Machine
end

