-- ==== Sys2Proof/Tests/Slice0.lean ====
section
/-! SUPPORT. Tests. The expected results are those of the spec: the encodings of spec/30_encoding.md R84, the checks of
spec/95_test_vectors.md (a vector is named by its number there) and the values of spec/10_state.md R37. The last section
shows, for every statement with hypotheses, a state and operands that meet them. -/

namespace Sys2Proof.Machine

/-! ## Helpers: the start state of a vector -/

def State.putSp (s : State) (n : Fin 17) : State := { s with sp := n }
def State.putStack (s : State) (j : Fin 16) (a : Addr) : State := { s with stack := s.stack.set j.val a }
def State.builtWith (s : State) (cfg : Config) : State := { s with cfg := cfg }

/-- exactly these cells are lit -/
def State.screen (s : State) (cells : List (Column × RowNumber)) : State :=
  { s with fb := cells.foldl (fun fb c => Framebuffer.flip fb c.1 c.2) Framebuffer.clear }

end Sys2Proof.Machine

namespace Sys2Proof.Tests

open Sys2Proof.Machine

/-- The reset state changed by `f`, with the word `w` stored at `pc`. -/
def start (f : State → State) (w : Nat) : State := (f State.reset).withFetchWord 16 w

/-- The state after one step, none if it stops. -/
def after (s : State) : Option State :=
  match step s with
  | .next t => some t
  | .fault _ | .refused _ => none

/-- The error of one step, none if it raises nothing. -/
def error (s : State) : Option Fault :=
  match step s with
  | .fault e => some e
  | .next _ | .refused _ => none

/-- One step from `start f w` changes exactly what `g` changes. -/
abbrev runs (f : State → State) (w : Nat) (g : State → State) : Prop := after (start f w) = some (g (start f w))

/-! ## WellFormed -/

/-- R57: 3584 bytes fit. -/
theorem test_wellFormed_image : imageWellFormed (List.replicate 3584 0) = true := by
  rw [imageWellFormed, List.length_replicate]; decide

/-- R57: 3585 bytes are refused. -/
theorem test_illFormed_image : imageWellFormed (List.replicate 3585 0) = false := by
  rw [imageWellFormed, List.length_replicate]; decide

/-- R7: keys 3 and 9 down, key 9 reported. -/
theorem test_wellFormed_keyChoice : (KeyChoice.mk 0x0208 0x9).wellFormed = true := by decide

/-- R7, "to one of its members": key 4 is not down, and no key is a member of the empty set. -/
theorem test_illFormed_keyChoice :
    (KeyChoice.mk 0x0208 0x4).wellFormed = false ∧ (KeyChoice.mk 0x0000 0x0).wellFormed = false := by decide

theorem test_wellFormed_config : Config.default.wellFormed = true := by decide

/-- One bad entry makes the parameters ill formed. -/
theorem test_illFormed_config :
    { Config.default with keyChoices := [⟨0x0208, 0x9⟩, ⟨0x0208, 0x4⟩] }.wellFormed = false := by decide

/-- Every instruction term is well formed: its operands have the widths of R81 and no row restricts them further (R86). -/
theorem test_wellFormed_instr : (Instr.opDXYN 0xF 0xF 0xF).wellFormed = true := by decide

/-! ## Decoding: every row of R84, from a word written out from its digits -/

theorem test_decode_control :
    decodeTableWord 16 0x00EE = some .op00EE ∧ decodeTableWord 16 0x1ABC = some (.op1NNN 0xABC) ∧
    decodeTableWord 16 0x2FFF = some (.op2NNN 0xFFF) ∧ decodeTableWord 16 0xB30A = some (.opBNNN 0x30A) ∧
    decodeTableWord 16 0x3342 = some (.op3XNN 0x3 0x42) ∧ decodeTableWord 16 0x43F0 = some (.op4XNN 0x3 0xF0) ∧
    decodeTableWord 16 0x5AB0 = some (.op5XY0 0xA 0xB) ∧ decodeTableWord 16 0x9AB0 = some (.op9XY0 0xA 0xB) := by decide

theorem test_decode_registers :
    decodeTableWord 16 0x6A05 = some (.op6XNN 0xA 0x05) ∧ decodeTableWord 16 0x72FF = some (.op7XNN 0x2 0xFF) ∧
    decodeTableWord 16 0x8AB0 = some (.op8XY0 0xA 0xB) ∧ decodeTableWord 16 0x8AB1 = some (.op8XY1 0xA 0xB) ∧
    decodeTableWord 16 0x8AB2 = some (.op8XY2 0xA 0xB) ∧ decodeTableWord 16 0x8AB3 = some (.op8XY3 0xA 0xB) ∧
    decodeTableWord 16 0x8AB4 = some (.op8XY4 0xA 0xB) ∧ decodeTableWord 16 0x8AB5 = some (.op8XY5 0xA 0xB) ∧
    decodeTableWord 16 0x8AB6 = some (.op8XY6 0xA 0xB) ∧ decodeTableWord 16 0x8AB7 = some (.op8XY7 0xA 0xB) ∧
    decodeTableWord 16 0x8ABE = some (.op8XYE 0xA 0xB) ∧ decodeTableWord 16 0xC30F = some (.opCXNN 0x3 0x0F) := by decide

theorem test_decode_index_and_display :
    decodeTableWord 16 0xA250 = some (.opANNN 0x250) ∧ decodeTableWord 16 0xF21E = some (.opFX1E 0x2) ∧
    decodeTableWord 16 0xF329 = some (.opFX29 0x3) ∧ decodeTableWord 16 0xF433 = some (.opFX33 0x4) ∧
    decodeTableWord 16 0xFF55 = some (.opFX55 0xF) ∧ decodeTableWord 16 0xF265 = some (.opFX65 0x2) ∧
    decodeTableWord 16 0x00E0 = some .op00E0 ∧ decodeTableWord 16 0xD123 = some (.opDXYN 0x1 0x2 0x3) := by decide

theorem test_decode_keypad_and_timers :
    decodeTableWord 16 0xE19E = some (.opEX9E 0x1) ∧ decodeTableWord 16 0xEFA1 = some (.opEXA1 0xF) ∧
    decodeTableWord 16 0xF407 = some (.opFX07 0x4) ∧ decodeTableWord 16 0xFF0A = some (.opFX0A 0xF) ∧
    decodeTableWord 16 0xF415 = some (.opFX15 0x4) ∧ decodeTableWord 16 0xF418 = some (.opFX18 0x4) := by decide

/-- R88 and section 5 of spec/95_test_vectors.md: words that are no instruction. -/
theorem test_decode_illegal :
    [0x0000, 0x00EF, 0x01E0, 0x0FFF, 0x5AB1, 0x8AB8, 0x8ABF, 0x9ABF, 0xE09D, 0xE0A2, 0xF075, 0xF085, 0xFFFF].all
      (fun w => decodeTableWord 16 w = none) = true := by decide

/-- R84: no word matches two rows: where two rows' masks agree, their values differ. -/
theorem test_rows_do_not_overlap :
    opcodeTable.Pairwise (fun r q => r.value &&& (r.mask &&& q.mask) ≠ q.value &&& (r.mask &&& q.mask)) := by decide

/-! ## One step of each instruction -/

/-! ### Control transfer (spec/41_control_flow.md) -/

/-- T1 -/
theorem test_return :
    runs (fun s => ((s.putSp 1).putStack 0 0x200).setPc 0x300) 0x00EE
      (fun s => (s.setPc 0x202).putSp 0) := by decide

/-- T3 -/
theorem test_return_wraps_pc :
    runs (fun s => ((s.putSp 1).putStack 0 0xFFE).setPc 0x300) 0x00EE
      (fun s => (s.setPc 0x000).putSp 0) := by decide

/-- T4 -/
theorem test_jump : runs id 0x1ABC (fun s => s.setPc 0xABC) := by decide

/-- T6 -/
theorem test_call_pushes_own_address : runs id 0x2300 (fun s => ((s.setPc 0x300).putSp 1).putStack 0 0x200) := by decide

/-- T7 -/
theorem test_sixteenth_call :
    runs (fun s => (s.putSp 15).setPc 0x400) 0x2ABC
      (fun s => ((s.setPc 0xABC).putSp 16).putStack 15 0x400) := by decide

/-- T12 -/
theorem test_skip_equal : runs (fun s => s.setReg 0x3 0x42) 0x3342 (fun s => s.setPc 0x204) := by decide

/-- T14 -/
theorem test_skip_wraps_pc : runs (fun s => (s.setReg 0x3 0x42).setPc 0xFFE) 0x3342 (fun s => s.setPc 0x002) := by decide

/-- T15 -/
theorem test_no_skip_on_equal : runs (fun s => s.setReg 0x3 0x42) 0x4342 (fun s => s.setPc 0x202) := by decide

/-- T16 -/
theorem test_skip_not_equal : runs (fun s => s.setReg 0x3 0x42) 0x4300 (fun s => s.setPc 0x204) := by decide

/-- T17 -/
theorem test_skip_registers_equal :
    runs (fun s => (s.setReg 0x1 0x07).setReg 0x2 0x07) 0x5120
      (fun s => s.setPc 0x204) := by decide

/-- T18 -/
theorem test_no_skip_registers_differ :
    runs (fun s => (s.setReg 0x1 0x07).setReg 0x2 0x08) 0x5120
      (fun s => s.setPc 0x202) := by decide

/-- T20 -/
theorem test_skip_registers_differ :
    runs (fun s => (s.setReg 0x1 0x07).setReg 0x2 0x08) 0x9120
      (fun s => s.setPc 0x204) := by decide

/-- T21 -/
theorem test_no_skip_registers_equal :
    runs (fun s => (s.setReg 0x1 0x07).setReg 0x2 0x07) 0x9120
      (fun s => s.setPc 0x202) := by decide

/-- T10 -/
theorem test_jump_offset_wraps : runs (fun s => s.setReg 0x0 0x02) 0xBFFF (fun s => s.setPc 0x001) := by decide

/-- T11 -/
theorem test_jump_offset_vx :
    runs (fun s => ((s.builtWith { Config.default with jumpOffset := .vx }).setReg 0x0 0x10).setReg 0x3 0x04) 0xB300
      (fun s => s.setPc 0x304) := by decide

/-! ### Registers and arithmetic (spec/42_alu.md) -/

/-- T28 -/
theorem test_load_immediate_at_top_of_memory :
    runs (fun s => s.setPc 0xFFF) 0x6A05
      (fun s => (s.setReg 0xA 0x05).setPc 0x001) := by decide

/-- A4 -/
theorem test_add_immediate_wraps :
    runs (fun s => (s.setReg 0x2 0xFF).setReg 0xF 0x55) 0x7201
      (fun s => (s.setReg 0x2 0x00).setPc 0x202) := by decide

/-- A7 -/
theorem test_copy : runs (fun s => s.setReg 0x2 0x9C) 0x8120 (fun s => (s.setReg 0x1 0x9C).setPc 0x202) := by decide

/-- A9 -/
theorem test_or :
    runs (fun s => ((s.setReg 0x1 0xF0).setReg 0x2 0x0F).setReg 0xF 0x55) 0x8121
      (fun s => (s.setReg 0x1 0xFF).setPc 0x202) := by decide

/-- A10 -/
theorem test_and :
    runs (fun s => ((s.setReg 0x1 0xF0).setReg 0x2 0x3C).setReg 0xF 0x55) 0x8122
      (fun s => (s.setReg 0x1 0x30).setPc 0x202) := by decide

/-- A11 -/
theorem test_xor :
    runs (fun s => ((s.setReg 0x1 0xF0).setReg 0x2 0x3C).setReg 0xF 0x55) 0x8123
      (fun s => (s.setReg 0x1 0xCC).setPc 0x202) := by decide

/-- A13 -/
theorem test_add_carry :
    runs (fun s => ((s.setReg 0x1 0xC8).setReg 0x2 0x64).setReg 0xF 0x55) 0x8124
      (fun s => ((s.setReg 0x1 0x2C).setReg 0xF 0x01).setPc 0x202) := by decide

/-- A18 -/
theorem test_add_into_vf :
    runs (fun s => (s.setReg 0xF 0x80).setReg 0x2 0x80) 0x8F24
      (fun s => (s.setReg 0xF 0x00).setPc 0x202) := by decide

/-- A21 -/
theorem test_subtract_borrow :
    runs (fun s => ((s.setReg 0x1 0x10).setReg 0x2 0x20).setReg 0xF 0x55) 0x8125
      (fun s => ((s.setReg 0x1 0xF0).setReg 0xF 0x00).setPc 0x202) := by decide

/-- A26 -/
theorem test_subtract_into_vf :
    runs (fun s => (s.setReg 0xF 0x05).setReg 0x2 0x07) 0x8F25
      (fun s => (s.setReg 0xF 0xFE).setPc 0x202) := by decide

/-- A31 -/
theorem test_shift_right :
    runs (fun s => ((s.setReg 0x1 0x05).setReg 0x2 0xF0).setReg 0xF 0x55) 0x8126
      (fun s => ((s.setReg 0x1 0x02).setReg 0xF 0x01).setPc 0x202) := by decide

/-- A36 -/
theorem test_shift_right_vy :
    runs (fun s => (((s.builtWith { Config.default with shiftSource := .vy }).setReg 0x1 0x05).setReg 0x2 0xF0).setReg
          0xF 0x55) 0x8126
      (fun s => ((s.setReg 0x1 0x78).setReg 0xF 0x00).setPc 0x202) := by decide

/-- A28 -/
theorem test_subtract_reversed_borrow :
    runs (fun s => ((s.setReg 0x1 0x20).setReg 0x2 0x10).setReg 0xF 0x55) 0x8127
      (fun s => ((s.setReg 0x1 0xF0).setReg 0xF 0x00).setPc 0x202) := by decide

/-- A30 -/
theorem test_subtract_reversed_into_vf :
    runs (fun s => (s.setReg 0xF 0x05).setReg 0x2 0x07) 0x8F27
      (fun s => (s.setReg 0xF 0x02).setPc 0x202) := by decide

/-- A38 -/
theorem test_shift_left :
    runs (fun s => ((s.setReg 0x1 0x81).setReg 0x2 0x0F).setReg 0xF 0x55) 0x812E
      (fun s => ((s.setReg 0x1 0x02).setReg 0xF 0x01).setPc 0x202) := by decide

/-- A43 -/
theorem test_shift_left_vy :
    runs (fun s => (((s.builtWith { Config.default with shiftSource := .vy }).setReg 0x1 0x81).setReg 0x2 0x0F).setReg
          0xF 0x55) 0x812E
      (fun s => ((s.setReg 0x1 0x1E).setReg 0xF 0x00).setPc 0x202) := by decide

/-! ### Index register and memory (spec/43_index_memory.md) -/

/-- M2 -/
theorem test_load_index : runs (fun s => s.setIndex 0xFFFF) 0xAFFF (fun s => (s.setIndex 0x0FFF).setPc 0x202) := by decide

/-- M5 -/
theorem test_add_index_wraps :
    runs (fun s => (s.setIndex 0xFFFF).setReg 0x2 0x01) 0xF21E
      (fun s => (s.setIndex 0x0000).setPc 0x202) := by decide

/-- M6 -/
theorem test_add_index_mod_4096 :
    runs (fun s => ((s.builtWith { Config.default with indexWrap := .mod4096 }).setIndex 0x0FFF).setReg 0x2 0x01) 0xF21E
      (fun s => (s.setIndex 0x0000).setPc 0x202) := by decide

/-- M7 -/
theorem test_glyph_of_A : runs (fun s => s.setReg 0x3 0x0A) 0xF329 (fun s => (s.setIndex 0x0082).setPc 0x202) := by decide

/-- M11 -/
theorem test_glyph_of_FF : runs (fun s => s.setReg 0x3 0xFF) 0xF329 (fun s => (s.setIndex 0x054B).setPc 0x202) := by
          decide

/-- M12 -/
theorem test_decimal :
    runs (fun s => (s.setReg 0x4 0x9C).setIndex 0x0300) 0xF433
      (fun s => (((s.setPc 0x202).writeByte 0x300 0x01).writeByte 0x301 0x05).writeByte 0x302 0x06) := by decide

/-- M16 -/
theorem test_decimal_wraps :
    runs (fun s => (s.setReg 0x4 0x7B).setIndex 0x0FFF) 0xF433
      (fun s => (((s.setPc 0x202).writeByte 0x000 0x02).writeByte 0x001 0x03).writeByte 0xFFF 0x01) := by decide

/-- M20 -/
theorem test_store_advances :
    runs (fun s => ((((s.builtWith { Config.default with loadStoreAdvance := .xPlus1 }).setReg 0x0 0x11).setReg 0x1
          0x22).setReg 0x2 0x33).setIndex 0x0400) 0xF255
      (fun s => ((((s.setIndex 0x0403).setPc 0x202).writeByte 0x400 0x11).writeByte 0x401 0x22).writeByte 0x402 0x33) :=
          by decide

/-- M21 -/
theorem test_store_wraps :
    runs (fun s => ((s.setReg 0x0 0x11).setReg 0x1 0x22).setIndex 0x0FFF) 0xF155
      (fun s => ((s.setPc 0x202).writeByte 0x000 0x22).writeByte 0xFFF 0x11) := by decide

/-- M23 -/
theorem test_load :
    runs (fun s => (((((s.writeByte 0x400 0x11).writeByte 0x401 0x22).writeByte 0x402 0x33).writeByte 0x403
          0x44).setIndex 0x0400).setReg 0x3 0x99) 0xF265
      (fun s => (((s.setReg 0x0 0x11).setReg 0x1 0x22).setReg 0x2 0x33).setPc 0x202) := by decide

/-- M26 -/
theorem test_load_wraps :
    runs (fun s => ((s.writeByte 0xFFF 0x11).writeByte 0x000 0x22).setIndex 0x0FFF) 0xF165
      (fun s => ((s.setReg 0x0 0x11).setReg 0x1 0x22).setPc 0x202) := by decide

/-! ### Display (spec/44_display.md) -/

/-- G1 -/
theorem test_clear :
    runs (fun s => ((s.screen [(0, 0), (63, 31), (10, 5)]).setReg 0x0 0x11).setIndex 0x0123) 0x00E0
      (fun s => (s.screen []).setPc 0x202) := by decide

/-- G4 -/
theorem test_draw_collision :
    runs (fun s => ((s.screen [(0, 0)]).setIndex 0x0050).setReg 0xF 0x55) 0xD005
      (fun s => ((s.screen [(0, 1), (0, 2), (0, 3), (0, 4), (1, 0), (1, 4), (2, 0), (2, 4), (3, 0), (3, 1), (3, 2),
          (3, 3), (3, 4)]).setReg 0xF 0x01).setPc 0x202) := by decide +kernel

/-- G6 -/
theorem test_draw_wraps :
    runs (fun s => ((((s.setIndex 0x0300).writeByte 0x300 0xFF).setReg 0x1 0x3C).setReg 0x2 0x1F).setReg 0xF 0x55) 0xD121
      (fun s => ((s.screen [(0, 31), (1, 31), (2, 31), (3, 31), (60, 31), (61, 31), (62, 31), (63, 31)]).setReg 0xF
          0x00).setPc 0x202) := by decide +kernel

/-! ### Keypad and timers (spec/45_keypad_timers.md) -/

/-- K1 -/
theorem test_skip_key_down : runs (fun s => (s.setReg 0x1 0x05).setKey 0x5 true) 0xE19E (fun s => s.setPc 0x204) := by
          decide

/-- K5 -/
theorem test_key_index_mod_16 :
    runs (fun s => (s.setReg 0x1 0x15).setKey 0x5 true) 0xE19E
      (fun s => s.setPc 0x204) := by decide

/-- K3 -/
theorem test_no_skip_key_down :
    runs (fun s => (s.setReg 0x1 0x05).setKey 0x5 true) 0xE1A1
      (fun s => s.setPc 0x202) := by decide

/-- K4 -/
theorem test_skip_key_up : runs (fun s => s.setReg 0x1 0x05) 0xE1A1 (fun s => s.setPc 0x204) := by decide

/-- K9 -/
theorem test_wait_no_key : runs id 0xF30A id := by decide

/-- K11 -/
theorem test_wait_lowest_key :
    runs (fun s => (((s.setKey 0xC true).setKey 0x3 true).setKey 0x9 true).setReg 0x3 0xEE) 0xF30A
      (fun s => (s.setReg 0x3 0x03).setPc 0x202) := by decide

/-- K14 -/
theorem test_read_delay : runs (fun s => s.setDelay 0x2A) 0xF407 (fun s => (s.setReg 0x4 0x2A).setPc 0x202) := by decide

/-- K17 -/
theorem test_set_delay :
    runs (fun s => (s.setReg 0x4 0xFF).setDelay 0x01) 0xF415
      (fun s => (s.setPc 0x202).setDelay 0xFF) := by decide

/-- K18 -/
theorem test_set_sound : runs (fun s => s.setReg 0x4 0x05) 0xF418 (fun s => (s.setPc 0x202).setSound 0x05) := by decide

/-! ### The random byte, and the host's operations -/

/-- A44, for every random byte: the result is `rand & NN`. -/
theorem test_random : after (start id 0xC30F) =
    some ({ start id 0xC30F with draws := 1 }.setReg 0x3 (Config.freeByte 0 0 &&& 0x0F)).advance := rfl

/-- H3 -/
theorem test_tick : (operate .tickTimers ((State.reset.setDelay 0xFF).setSound 0x02)).1 =
    (State.reset.setDelay 0xFE).setSound 0x01 := by decide

/-- H1, the end: six ticks from 5 -/
theorem test_tick_stays_at_zero : (runOps (List.replicate 6 .tickTimers) ((State.reset.setDelay 5).setSound 1)) =
    State.reset := by decide

/-- H6 -/
theorem test_load_keeps_the_rest :
    (runOps [.load [0x11, 0x22, 0x33, 0x44], .load [0xAA]] State.reset).mem =
      [(0x200, 0xAA), (0x201, 0x22), (0x202, 0x33), (0x203, 0x44)] := by decide

/-- H9 -/
theorem test_setKey : runOps [.setKey 0xB true, .setKey 0xB true, .setKey 0xB false] State.reset = State.reset := by decide

/-- H10 -/
theorem test_shouldBeep : responses [.shouldBeep, .tickTimers, .shouldBeep] (State.reset.setSound 1) =
    [.beep true, .done, .beep false] := by decide

/-- H14: a store into the glyph table is undone by `Reset`. -/
theorem test_reset_restores_glyphs : (operate .reset (State.reset.writeByte 0x052 0xFF)).1 = State.reset := by decide

/-! ## Witnesses: states and operands that meet the hypotheses of the statements -/

theorem witness_inv (f : State → State) (h : (f State.reset).Inv) (w : Nat) : (start f w).Inv :=
  ⟨State.writeByte_wf _ (State.writeByte_wf _ h.1 _ _) _ _, h.2⟩

theorem witness_DecodeOfEncodeIsIdentity : (Instr.op2NNN 0xFFF).wellFormed = true := rfl

theorem witness_NoBitOfAWordIsIgnored : decodeWord 0x8AB7 = .ok (.op8XY7 0xA 0xB) := rfl

theorem witness_DecodesIffItMatchesItsRow :
    decodeWord 0xFF55 = .ok (.opFX55 0xF) ∧ OpcodeRow.mk 0xF0FF 0xF055 ∈ opcodeTable := ⟨rfl, by decide⟩

/-- The wrap of the fetch at the top of memory. -/
theorem witness_FetchIsBigEndianAtPc : (start (fun s => s.setPc 0xFFF) 0x6A05).fetchWord = 0x6A05 := by decide

theorem witness_StepRunsTheDecodedInstruction :
    decode ((start id 0x6A05).readByte 0x200 :: (start id 0x6A05).readByte (0x200 + 1) :: [0x00]) =
      .ok (.op6XNN 0xA 0x05, [0x00]) ∧ (Instr.op6XNN 0xA 0x05).wellFormed = true := ⟨rfl, rfl⟩

theorem witness_PlacedWordIsRunNext :
    State.reset.Inv ∧ 0x6A05 < 65536 ∧ decodeTableWord 16 0x6A05 = some (.op6XNN 0xA 0x05) :=
  ⟨⟨rfl, rfl⟩, by decide, rfl⟩

/-- H13, T8, T2: each error of `Step`. -/
theorem witness_StepRaisesExactlyTheseErrors :
    error State.reset = some .unknownInstruction ∧
    error (start (fun s => s.putSp 16) 0x2ABC) = some .callStackOverflow ∧
    error (start id 0x00EE) = some .returnStackUnderflow := by decide

/-- K9, K10: both sides of the wait. -/
theorem witness_WaitsExactlyAtFX0AWithNoKey :
    (operate .step (start id 0xF30A)).2 = .stepped .waitingForKey ∧
    decodeWord (start id 0xF30A).fetchWord = .ok (.opFX0A 0x3) ∧ (∀ k, (start id 0xF30A).keyDown k = false) ∧
    (operate .step (start (fun s => s.setKey 0x7 true) 0xF30A)).2 = .stepped .advanced := ⟨rfl, rfl, by decide, rfl⟩

theorem witness_ErrorsChangeNothingAndRecur :
    operate .step State.reset = (State.reset, .err .unknownInstruction) ∧
    operate (.load (List.replicate 3585 0)) State.reset = (State.reset, .err .romTooLarge) :=
  ⟨rfl, by rw [operate, loadImage, imageWellFormed, List.length_replicate]; rfl⟩

theorem witness_ErrorsLastUntilLoadOrReset :
    step State.reset = .fault .unknownInstruction ∧
    (∀ op ∈ [Operation.tickTimers, .setKey 0 true, .step], op ≠ .reset ∧ ∀ bytes, op ≠ .load bytes) ∧
    Operation.step ∈ [Operation.tickTimers, .setKey 0 true, .step] := ⟨rfl, by simp, by simp⟩

/-- One entry, sixteen entries, none. -/
theorem witness_ReturnPopsAndAddsTwo :
    0 < (State.reset.putSp 1).sp.val ∧ 0 < (State.reset.putSp 16).sp.val ∧ State.reset.sp.val = 0 := by decide

/-- No entry, fifteen entries, sixteen. -/
theorem witness_CallPushesItsOwnAddress :
    State.reset.sp.val < 16 ∧ (State.reset.putSp 15).sp.val < 16 ∧ (State.reset.putSp 16).sp.val = 16 := by decide

theorem witness_JumpWithOffsetAddsARegister :
    State.reset.cfg.jumpOffset = .v0 ∧
    (State.reset.builtWith { Config.default with jumpOffset := .vx }).cfg.jumpOffset = .vx := ⟨rfl, rfl⟩

theorem witness_RegisterSkipsCompareVxWithVy : (0x1#4 : Nibble) ≠ 0 ∧ (0xF#4 : Nibble) ≠ 0 := by decide

theorem witness_CallThenReturnComesBack :
    let t := (State.reset.putStack 0 0x200).putSp 1 |>.setPc 0x300
    exec (.op2NNN 0x300) State.reset = .next t ∧ (t.setReg 0 1).sp = t.sp ∧
      (t.setReg 0 1).stack[State.reset.sp.val] = t.stack[State.reset.sp.val] := ⟨rfl, rfl, rfl⟩

theorem witness_CopySetsVxToVy : (0x1#4 : Nibble) = 0x1 := rfl

theorem witness_AddSetsCarry : (0x1#4 : Nibble) ≠ vf ∧ (0x2#4 : Nibble) ≠ 0x1 ∧ (0x2#4 : Nibble) ≠ vf := by decide

theorem witness_SubtractionsSetNoBorrow : (0xE#4 : Nibble) ≠ vf ∧ (0x2#4 : Nibble) ≠ 0xE := by decide

/-- Both values of `SHIFT_SOURCE`. -/
theorem witness_ShiftsMoveOneBitIntoVf :
    let s := (State.reset.setReg 0x1 0x05).setReg 0x2 0xF0
    let u := s.builtWith { Config.default with shiftSource := .vy }
    (0x05 : Byte) = (if s.cfg.shiftSource = .vx then s.reg 0x1 else s.reg 0x2) ∧
    (0xF0 : Byte) = (if u.cfg.shiftSource = .vx then u.reg 0x1 else u.reg 0x2) ∧ (0x1#4 : Nibble) ≠ vf := by decide

/-- A load of V0 to VE, the largest X that leaves VF alone. -/
theorem witness_OnlySixInstructionsWriteTheFlag :
    (∃ t, exec (.opFX65 0xE) State.reset = .next t) ∧
    (∀ x y n, Instr.opFX65 0xE ≠ .op8XY4 x y ∧ Instr.opFX65 0xE ≠ .op8XY5 x y ∧ Instr.opFX65 0xE ≠ .op8XY6 x y ∧
      Instr.opFX65 0xE ≠ .op8XY7 x y ∧ Instr.opFX65 0xE ≠ .op8XYE x y ∧ Instr.opFX65 0xE ≠ .opDXYN x y n) ∧
    fieldX (encode (.opFX65 0xE)) ≠ 0xF#4 ∧ (0xE#4 : Nibble) ≠ vf ∧
    (0x00 : Byte) = (if State.reset.cfg.shiftSource = .vx then State.reset.reg 0xE else State.reset.reg 0x1) :=
  ⟨⟨_, rfl⟩, by simp, by decide, by decide, by decide⟩

theorem witness_AddIndexWrapsWithoutFlag :
    State.reset.cfg.indexWrap = .mod65536 ∧
    (State.reset.builtWith { Config.default with indexWrap := .mod4096 }).cfg.indexWrap = .mod4096 := ⟨rfl, rfl⟩

/-- M16: the digits wrap at the top of memory; the byte above them is outside. -/
theorem witness_DecimalDigitsAreStored :
    let s := State.reset.setIndex 0x0FFF
    s.Inv ∧ (0x002 : Addr) ≠ s.ea 0 ∧ (0x002 : Addr) ≠ s.ea 1 ∧ (0x002 : Addr) ≠ s.ea 2 := ⟨⟨rfl, rfl⟩, by decide⟩

/-- X = 0 and X = F, the ends of the range, and an address outside the stored bytes. -/
theorem witness_StoreRegistersWritesTheirBytes :
    let s := State.reset.setIndex 0x0400
    s.Inv ∧ 0 ≤ (0x0#4 : Nibble).toNat ∧ 15 ≤ (0xF#4 : Nibble).toNat ∧
      ∀ k ≤ (0xF#4 : Nibble).toNat, (0x410 : Addr) ≠ s.ea k := ⟨⟨rfl, rfl⟩, by decide, by decide, by decide⟩

theorem witness_LoadAfterStoreRestoresRegisters :
    let s := (State.reset.setReg 0x0 0x11).setIndex 0x0400
    let t := (s.writeByte 0x400 0x11).setPc 0x202
    let u := t.setReg 0x0 0x99
    s.Inv ∧ exec (.opFX55 0x0) s = .next t ∧ u.mem = t.mem ∧ u.cfg = t.cfg ∧ u.i = s.i ∧
      (0x0#4 : Nibble).toNat ≤ (0x0#4 : Nibble).toNat := ⟨⟨rfl, rfl⟩, rfl, rfl, rfl, rfl, Nat.le_refl _⟩

theorem witness_HighIndexBitsAreUnobservable :
    SameButIndexHigh (State.reset.setIndex 0x0300)
      ((State.reset.setIndex 0xF300).builtWith { Config.default with indexWrap := .mod4096 }) := ⟨rfl, rfl⟩

/-- Twice the glyph of digit 0 at the origin. -/
theorem witness_DrawingTwiceRestoresTheScreen :
    ∃ t u, exec (.opDXYN 0 0 5) (State.reset.setIndex 0x0050) = .next t ∧ exec (.opDXYN 0 0 5) t = .next u ∧
      (t.reg 0).toNat % 64 = ((State.reset.setIndex 0x0050).reg 0).toNat % 64 ∧
      (t.reg 0).toNat % 32 = ((State.reset.setIndex 0x0050).reg 0).toNat % 32 := ⟨_, _, rfl, rfl, rfl, rfl⟩

/-- The case R192(f) leaves out: the one covered cell is lit, drawing twice restores it, and VF is 0 after the second draw. -/
theorem witness_DrawingTwiceOnALitCell :
    let s := start (fun s => (s.screen [(0, 0)]).setReg 0x1 0x80 |>.setIndex 0x0300 |>.writeByte 0x300 0x80) 0xD001
    ((after s).bind fun t => after (t.setPc 0x200)).map (fun u => (u.fb == s.fb, u.reg vf)) = some (true, 0) := by decide

theorem witness_FramebufferHasTwoWriters :
    (∃ t, exec (.op6XNN 1 2) State.reset = .next t) ∧ Instr.op6XNN 1 2 ≠ .op00E0 ∧
    (∀ x y n, Instr.op6XNN 1 2 ≠ .opDXYN x y n) ∧ Operation.tickTimers ≠ .step ∧ Operation.tickTimers ≠ .reset :=
  ⟨⟨_, rfl⟩, by decide, by simp, by decide, by decide⟩

/-- Below 16, and above 15, where the index is taken modulo 16. -/
theorem witness_KeySkipsTestTheKeyOfVx :
    (0x5#4 : Nibble).toNat = ((State.reset.setReg 1 0x05).reg 1).toNat % 16 ∧
    (0xF#4 : Nibble).toNat = ((State.reset.setReg 1 0xFF).reg 1).toNat % 16 := by decide

/-- No key, the last key, and the default choice. -/
theorem witness_WaitForKeyReportsAPressedKey :
    (∀ k, State.reset.keyDown k = false) ∧ (∃ k, (State.reset.setKey 0xF true).keyDown k = true) ∧
    (State.reset.setKey 0xF true).cfg.keyChoices = [] := ⟨by decide, ⟨0xF, by decide⟩, rfl⟩

theorem witness_StepNeverTicksATimer :
    step (start (fun s => s.setReg 4 0x3C) 0xF415) =
      .next ((start (fun s => s.setReg 4 0x3C) 0xF415).setDelay 0x3C).advance := rfl

theorem witness_KeysAreWrittenOnlyByTheHost :
    (∀ k p, Operation.step ≠ .setKey k p) ∧ Operation.step ≠ .reset := ⟨by simp, by decide⟩

theorem witness_WritersOfMemoryIndexAndStack :
    step (start id 0x2300) = .next (((start id 0x2300).putStack 0 0x200).putSp 1 |>.setPc 0x300) := rfl

/-- A store into the glyph table, from a state with the invariant. -/
theorem witness_StepKeepsTheInvariant :
    let s := start (fun s => (s.setIndex 0x0050).setReg 0 0xFF) 0xF055
    s.Inv ∧ step s = .next ((s.writeByte 0x050 0xFF).advance) := ⟨witness_inv _ ⟨rfl, rfl⟩ _, rfl⟩

/-- Two cores from power-on, each with a random source of its own. -/
theorem witness_ParametersNeverChange :
    OwnSources [State.reset, State.powerOn { Config.default with randomSource := 1 } 0] ∧
    [State.reset, State.powerOn { Config.default with randomSource := 1 } 0][0]? = some State.reset ∧ (1 : Nat) ≠ 0 :=
  ⟨by decide, rfl, by decide⟩

/-- R238: one `SetKey` on the second of two cores leaves the first as it was. -/
theorem test_operateAt_other_core :
    (operateAt (.setKey 0xB true) 1 [State.reset, State.reset])[0]? = some State.reset := by decide

/-- Parameters other than the default. -/
theorem witness_ResetHasTheInvariant :
    { Config.default with keyChoices := [⟨0x0208, 0x9⟩] }.wellFormed = true := by decide

theorem witness_ReachableStatesHaveTheInvariant :
    State.reset.Inv ∧ Reachable (runOps [.load [0x12, 0x00], .step] State.reset) :=
  ⟨⟨rfl, rfl⟩, Config.default, 0, [.load [0x12, 0x00], .step], rfl, rfl⟩

theorem witness_CanonicalMemoryIsUnique :
    Memory.wf Glyphs.default [(0x050, 0xFF), (0xFFF, 0x01)] = true ∧
    (∀ a < 4096, Memory.read Glyphs.default a [(0x050, 0xFF), (0xFFF, 0x01)] =
      Memory.read Glyphs.default a [(0x050, 0xFF), (0xFFF, 0x01)]) := ⟨by decide, fun _ _ => rfl⟩

theorem witness_TimerAfterTicks :
    NeverAlong WritesDelay [.tickTimers, .setKey 0 true, .tickTimers] (State.reset.setDelay 5) ∧
    NeverAlong WritesSound [.tickTimers, .setKey 0 true, .tickTimers] (State.reset.setDelay 5) := by
  simp [NeverAlong, WritesDelay, WritesSound]

/-- The largest image, its last byte, and an address below it. -/
theorem witness_LoadWritesTheImage :
    (List.replicate 3584 (0 : Byte)).length ≤ 3584 ∧ State.reset.Inv ∧ 3583 < (List.replicate 3584 (0 : Byte)).length ∧
    (0x1FF : Addr).toNat < 0x200 :=
  ⟨Nat.le_of_eq List.length_replicate, ⟨rfl, rfl⟩, List.length_replicate.symm ▸ by decide, by decide⟩

theorem witness_LoadRejectsALongImage :
    (List.replicate 3585 (0 : Byte)).length > 3584 ∧ ([0xAA] : List Byte).length ≤ 3584 :=
  ⟨List.length_replicate.symm ▸ by decide, by decide⟩

theorem witness_SetKeySetsOneFlag : (0x0#4 : Nibble) ≠ 0xF := by decide

/-- The last bit, the last byte of the last glyph, and the addresses on either side of the glyph table. -/
theorem witness_ranges :
    7 < 8 ∧ 15 < 16 ∧ 4 < 5 ∧ (0x04F : Addr).toNat < 0x050 ∧ 0x0A0 ≤ (0x0A0 : Addr).toNat := by decide

end Sys2Proof.Tests
end

section
/-! SUPPORT. The parameters of a core are fixed when it is built, and the cores of a host are independent
(spec/10_state.md R35, spec/46_host_operations.md R238). -/

namespace Sys2Proof.Machine

variable {s t : State}

theorem step_next_cfg (h : step s = .next t) : t.cfg = s.cfg := by
  obtain ⟨i, -, hexec⟩ := step_next h
  obtain ⟨-, hcfg, -⟩ := exec_writes hexec
  exact hcfg

@[simp] theorem State.writeBytes_cfg (s : State) (a : Addr) (bs : List Byte) : (s.writeBytes a bs).cfg = s.cfg := by
  obtain ⟨m, hm⟩ := State.writeBytes_mem_only bs s a
  rw [hm]

@[simp] theorem State.resetAgain_cfg (s : State) : s.resetAgain.cfg = s.cfg := rfl

@[simp] theorem operate_cfg (op : Operation) (s : State) : (operate op s).1.cfg = s.cfg := by
  rcases operate_cases op s with
    hsame | ⟨bytes, -, -, hload⟩ | ⟨-, hstep⟩ | ⟨-, htick⟩ | ⟨k, p, -, hkey⟩ | ⟨-, hreset⟩
  · rw [hsame]
  · rw [hload, State.writeBytes_cfg]
  · exact step_next_cfg hstep
  · rw [htick, State.tickTimers_cfg]
  · rw [hkey, State.setKey_cfg]
  · rw [hreset, State.resetAgain_cfg]

@[simp] theorem runOps_cfg (ops : List Operation) (s : State) : (runOps ops s).cfg = s.cfg :=
  runOps_induction (P := fun t => t.cfg = s.cfg) (fun op t ht => (operate_cfg op t).trans ht) ops s rfl

/-! ## Several cores -/

theorem operateAt_getElem?_same (op : Operation) (n : Nat) (cores : List State) :
    (operateAt op n cores)[n]? = cores[n]?.map fun s => (operate op s).1 :=
  List.getElem?_modify_eq ..

theorem operateAt_getElem?_other (op : Operation) {n m : Nat} (h : m ≠ n) (cores : List State) :
    (operateAt op n cores)[m]? = cores[m]? := by
  rw [operateAt, List.getElem?_modify_ne _ _ h.symm]

/-- The list of the cores' parameters is the same at every number, the one operated on included. -/
theorem operateAt_map_cfg (op : Operation) (n : Nat) (cores : List State) :
    (operateAt op n cores).map State.cfg = cores.map State.cfg := by
  refine List.ext_getElem? fun m => ?_
  rw [List.getElem?_map, List.getElem?_map]
  by_cases hm : m = n
  · subst hm
    simp [operateAt_getElem?_same, Function.comp_def]
  · rw [operateAt_getElem?_other op hm]

theorem ownSources_iff_map_cfg {cores : List State} :
    OwnSources cores ↔ ((cores.map State.cfg).map Config.randomSource).Nodup := by
  rw [List.map_map]
  rfl

theorem OwnSources.operateAt {cores : List State} (h : OwnSources cores) (op : Operation) (n : Nat) :
    OwnSources (operateAt op n cores) := by
  rw [ownSources_iff_map_cfg, operateAt_map_cfg]
  exact ownSources_iff_map_cfg.mp h

/-- Settles O48, from what one operation does to the parameters: every run keeps them, and the list of the cores'
random sources is the same after an operation on one core. -/
theorem parametersNeverChange : Obligations.ParametersNeverChange :=
  ⟨runOps_cfg, fun op n cores =>
    ⟨fun h => h.operateAt op n, fun s hs => by rw [operateAt_getElem?_same, hs, Option.map_some],
      fun _ hm => operateAt_getElem?_other op hm cores⟩⟩

end Sys2Proof.Machine
end

section
/-! SUPPORT. The framebuffer along a run (spec/10_state.md R32, spec/44_display.md R190 to R193): which cells a sprite
covers, what a draw does to them, and that every operation counts the parity of the sprite bits on. -/

namespace Sys2Proof.Machine

variable {s t : State}

/-! ## The cells of a sprite -/

theorem State.spriteColumn_add_eq_iff (s : State) (x : Nibble) (cx : Column) (c : Nat) :
    cx = s.spriteColumn x + BitVec.ofNat 6 c ↔ cx.toNat = ((s.reg x).toNat % 64 + c) % 64 := by
  rw [← BitVec.toNat_inj, BitVec.toNat_add, State.spriteColumn, BitVec.toNat_ofNat, BitVec.toNat_ofNat,
    Nat.add_mod_mod]

theorem State.spriteRow_add_eq_iff (s : State) (y : Nibble) (cy : RowNumber) (r : Nat) :
    cy = s.spriteRow y + BitVec.ofNat 5 r ↔ cy.toNat = ((s.reg y).toNat % 32 + r) % 32 := by
  rw [← BitVec.toNat_inj, BitVec.toNat_add, State.spriteRow, BitVec.toNat_ofNat, BitVec.toNat_ofNat,
    Nat.add_mod_mod]

/-- The geometry of `SpriteCovers` in the coordinates that the draw itself computes. -/
theorem spriteCovers_iff {x y n : Nibble} {cx : Column} {cy : RowNumber} :
    SpriteCovers s x y n cx cy = true ↔ ∃ r < n.toNat, ∃ c < 8, cx = s.spriteColumn x + BitVec.ofNat 6 c ∧
      cy = s.spriteRow y + BitVec.ofNat 5 r ∧ (s.spriteByte r).getLsbD (7 - c) = true := by
  simp only [SpriteCovers, List.any_eq_true, List.mem_range, Bool.and_eq_true, decide_eq_true_eq, and_assoc,
    s.spriteColumn_add_eq_iff, s.spriteRow_add_eq_iff, State.spriteByte]

/-- The same by the offset of the cell from the sprite's corner: a cell lies in at most one row and one column. -/
theorem spriteCovers_eq_offset (x y n : Nibble) (cx : Column) (cy : RowNumber) :
    SpriteCovers s x y n cx cy =
      (decide ((cy - s.spriteRow y).toNat < n.toNat) && (decide ((cx - s.spriteColumn x).toNat < 8) &&
        (s.spriteByte (cy - s.spriteRow y).toNat).getLsbD (7 - (cx - s.spriteColumn x).toNat))) := by
  rw [Bool.eq_iff_iff, spriteCovers_iff]
  simp only [Bool.and_eq_true, decide_eq_true_eq]
  constructor
  · rintro ⟨r, hr, c, hc, hcol, hrow, hbit⟩
    have hr32 : r < 32 := by have := n.isLt; omega
    rw [(column_eq_iff _ _ (by omega)).1 hcol, (rowNumber_eq_iff _ _ hr32).1 hrow]
    exact ⟨hr, hc, hbit⟩
  · rintro ⟨hr, hc, hbit⟩
    exact ⟨_, hr, _, hc, (column_eq_iff _ _ (by omega)).2 rfl, (rowNumber_eq_iff _ _ (BitVec.isLt _)).2 rfl, hbit⟩

theorem drawSprite_cell (x y n : Nibble) (cx : Column) (cy : RowNumber) :
    Framebuffer.cell (s.drawSprite x y n).fb cx cy = (s.pixel cx cy ^^ SpriteCovers s x y n cx cy) := by
  rw [State.drawSprite, Canvas.drawRows_cell _ _ _ _ _ _ (by have := n.isLt; omega), spriteCovers_eq_offset]
  rfl

theorem drawSprite_hit_iff (x y n : Nibble) :
    (s.drawSprite x y n).hit = true ↔ ∃ cx cy, SpriteCovers s x y n cx cy = true ∧ s.pixel cx cy = true := by
  rw [State.drawSprite, Canvas.drawRows_hit _ _ _ _ (by have := n.isLt; omega)]
  simp only [Bool.false_eq_true, false_or, spriteCovers_iff]
  constructor
  · rintro ⟨r, hr, c, hc, hbit, hlit⟩
    exact ⟨_, _, ⟨r, hr, c, hc, rfl, rfl, hbit⟩, hlit⟩
  · rintro ⟨_, _, ⟨r, hr, c, hc, rfl, rfl, hbit⟩, hlit⟩
    exact ⟨r, hr, c, hc, hbit, hlit⟩

/-! ## The two instructions that write the framebuffer -/

/-- The state after 00E0. -/
def State.cleared (s : State) : State := { s with fb := Framebuffer.clear }.advance

/-- The state after DXYN. -/
def State.drawn (s : State) (x y n : Nibble) : State :=
  ({ s with fb := (s.drawSprite x y n).fb }.setReg vf (flagByte (s.drawSprite x y n).hit)).advance

theorem exec_op00E0 (s : State) : exec .op00E0 s = .next s.cleared := rfl

theorem exec_opDXYN (x y n : Nibble) (s : State) : exec (.opDXYN x y n) s = .next (s.drawn x y n) := rfl

@[simp] theorem State.pixel_cleared (s : State) (cx : Column) (cy : RowNumber) : s.cleared.pixel cx cy = false :=
  Framebuffer.cell_clear cx cy

@[simp] theorem State.pixel_drawn (s : State) (x y n : Nibble) (cx : Column) (cy : RowNumber) :
    (s.drawn x y n).pixel cx cy = (s.pixel cx cy ^^ SpriteCovers s x y n cx cy) :=
  drawSprite_cell x y n cx cy

theorem State.reg_vf_drawn (s : State) (x y n : Nibble) :
    (s.drawn x y n).reg vf = flagByte (s.drawSprite x y n).hit := by
  rw [State.drawn, State.reg_advance, State.reg_setReg_same]

/-- A draw collides exactly when it turns some cell from 1 to 0. -/
theorem drawSprite_hit_iff_cell_erased (x y n : Nibble) : (s.drawSprite x y n).hit = true ↔
    ∃ cx cy, s.pixel cx cy = true ∧ (s.drawn x y n).pixel cx cy = false := by
  rw [drawSprite_hit_iff]
  refine exists_congr fun cx => exists_congr fun cy => ?_
  rw [State.pixel_drawn]
  cases s.pixel cx cy <;> simp

/-! ## Every operation counts the parity on -/

section
variable {cx : Column} {cy : RowNumber} {p : Bool}

theorem parityAfter_step_clear (hd : decodeWord s.fetchWord = .ok .op00E0) : parityAfter cx cy .step s p = false := by
  simp [parityAfter, hd]

theorem parityAfter_step_draw {x y n : Nibble} (hd : decodeWord s.fetchWord = .ok (.opDXYN x y n)) :
    parityAfter cx cy .step s p = (p ^^ SpriteCovers s x y n cx cy) := by
  simp [parityAfter, hd]

theorem parityAfter_step_other (hclear : decodeWord s.fetchWord ≠ .ok .op00E0)
    (hdraw : ∀ x y n, decodeWord s.fetchWord ≠ .ok (.opDXYN x y n)) : parityAfter cx cy .step s p = p := by
  rw [parityAfter]
  split
  · exact absurd ‹_› hclear
  · exact absurd ‹_› (hdraw _ _ _)
  · rfl

end

theorem step_of_decode {i : Instr} (hd : decodeWord s.fetchWord = .ok i) : step s = exec i s := by
  rw [step, hd]

theorem operate_step_next (h : step s = .next t) : (operate .step s).1 = t := by
  rw [operate, h, settle_next]

/-- A step whose word is neither 00E0 nor DXYN leaves the framebuffer alone (R193), an error included. -/
theorem operate_step_fb (hclear : decodeWord s.fetchWord ≠ .ok .op00E0)
    (hdraw : ∀ x y n, decodeWord s.fetchWord ≠ .ok (.opDXYN x y n)) : (operate .step s).1.fb = s.fb := by
  rcases settle_state s (.stepped (stepOutcome s)) (step s) with hnext | hsame
  · obtain ⟨i, hd, hexec⟩ := step_next hnext
    obtain ⟨-, -, -, -, -, -, -, -, hfb, -⟩ := exec_writes hexec
    rcases hfb with hfb | rfl | ⟨x, y, n, rfl⟩
    · exact hfb
    · exact absurd hd hclear
    · exact absurd hd (hdraw x y n)
  · exact congrArg State.fb hsame

theorem operate_step_pixel (s : State) (cx : Column) (cy : RowNumber) :
    (operate .step s).1.pixel cx cy = parityAfter cx cy .step s (s.pixel cx cy) := by
  by_cases hclear : decodeWord s.fetchWord = .ok .op00E0
  · rw [operate_step_next ((step_of_decode hclear).trans (exec_op00E0 s)), parityAfter_step_clear hclear,
      State.pixel_cleared]
  by_cases hdraw : ∃ x y n, decodeWord s.fetchWord = .ok (.opDXYN x y n)
  · obtain ⟨x, y, n, hdraw⟩ := hdraw
    rw [operate_step_next ((step_of_decode hdraw).trans (exec_opDXYN x y n s)), parityAfter_step_draw hdraw,
      State.pixel_drawn]
  · have hdraw : ∀ x y n, decodeWord s.fetchWord ≠ .ok (.opDXYN x y n) := fun x y n h => hdraw ⟨x, y, n, h⟩
    rw [parityAfter_step_other hclear hdraw, State.pixel, operate_step_fb hclear hdraw, State.pixel]

@[simp] theorem State.pixel_powerOn (cfg : Config) (draws : Nat) (cx : Column) (cy : RowNumber) :
    (State.powerOn cfg draws).pixel cx cy = false :=
  Framebuffer.cell_clear cx cy

@[simp] theorem State.writeBytes_fb (s : State) (a : Addr) (bs : List Byte) : (s.writeBytes a bs).fb = s.fb := by
  obtain ⟨m, hm⟩ := State.writeBytes_mem_only bs s a
  rw [hm]

theorem operate_load_fb (bytes : List Byte) (s : State) : (operate (.load bytes) s).1.fb = s.fb := by
  rcases settle_state s .done (loadImage bytes s) with hnext | hsame
  · rw [operate, (loadImage_next hnext).1, State.writeBytes_fb]
  · exact congrArg State.fb hsame

theorem operate_pixel (op : Operation) (s : State) (cx : Column) (cy : RowNumber) :
    (operate op s).1.pixel cx cy = parityAfter cx cy op s (s.pixel cx cy) := by
  cases op with
  | load bytes => rw [State.pixel, operate_load_fb, parityAfter, State.pixel]
  | step => exact operate_step_pixel s cx cy
  | tickTimers => exact s.pixel_tickTimers cx cy
  | readFramebuffer => rfl
  | shouldBeep => rfl
  | setKey k p => exact s.pixel_setKey k p cx cy
  | reset => exact State.pixel_powerOn s.cfg s.draws cx cy

theorem runOps_pixel (cx : Column) (cy : RowNumber) : ∀ (ops : List Operation) (s : State),
    (runOps ops s).pixel cx cy = parityAlong cx cy ops s (s.pixel cx cy)
  | [], _ => rfl
  | op :: rest, s => by rw [runOps_cons, runOps_pixel cx cy rest, operate_pixel, parityAlong]

/-- Settles O40: every operation counts the parity on from any state, so by induction every run does, and the count
starts at 0 at power-on. -/
theorem screenIsTheXorOfAllDraws : Obligations.ScreenIsTheXorOfAllDraws := fun cx cy =>
  ⟨fun op s => operate_pixel op s cx cy, fun cfg draws => ⟨State.pixel_powerOn cfg draws cx cy, fun ops => by
    rw [runOps_pixel, State.pixel_powerOn]⟩⟩

end Sys2Proof.Machine
end

section
/-! SUPPORT. Who writes VF (spec/10_state.md R23). -/

namespace Sys2Proof.Machine

variable {s t : State}

/-! ## Instructions that are no flag writers -/

/-- FX65 with X other than F stops below VF. -/
theorem State.reg_vf_loadRegs (s : State) {x : Nibble} (hx : x ≠ vf) : (s.loadRegs (x.toNat + 1)).reg vf = s.reg vf := by
  have hlt : x.toNat < 15 := by
    have hne : x.toNat ≠ 15 := fun e => hx (BitVec.eq_of_toNat_eq e)
    have := x.isLt
    omega
  have hvf : ¬ vf.toNat < x.toNat + 1 := by simp only [BitVec.toNat_ofNat]; omega
  rw [s.loadRegs_reg vf (by omega), if_neg hvf]

theorem State.reg_advanceIndex (s : State) (x r : Nibble) : (s.advanceIndex x).reg r = s.reg r := by
  obtain ⟨w, hw⟩ := s.advanceIndex_i_only x
  rw [hw]
  rfl

theorem State.reg_storeRegs (s : State) (n : Nat) (r : Nibble) : (s.storeRegs n).reg r = s.reg r := by
  obtain ⟨m, hm⟩ := s.storeRegs_mem_only n
  rw [hm]
  rfl

theorem reg_vf_setReg_advance {x : Nibble} (hx : x ≠ vf) (s : State) (b : Byte) :
    (s.setReg x b).advance.reg vf = s.reg vf := by
  rw [State.reg_advance, s.reg_setReg_other hx.symm]

/-- `i` is one of the six instructions that write VF as a flag. -/
def WritesFlag (i : Instr) : Prop :=
  ∃ x y n, i = .op8XY4 x y ∨ i = .op8XY5 x y ∨ i = .op8XY6 x y ∨ i = .op8XY7 x y ∨ i = .op8XYE x y ∨ i = .opDXYN x y n

theorem not_writesFlag_iff {i : Instr} : ¬ WritesFlag i ↔ ∀ x y n, i ≠ .op8XY4 x y ∧ i ≠ .op8XY5 x y ∧ i ≠ .op8XY6 x y ∧
    i ≠ .op8XY7 x y ∧ i ≠ .op8XYE x y ∧ i ≠ .opDXYN x y n := by
  simp only [WritesFlag, not_exists, not_or, ne_eq]

/-- An instruction outside the six writes VF only as the register its X field names. -/
theorem exec_reg_vf {i : Instr} (h : exec i s = .next t) (hflag : ¬ WritesFlag i)
    (hx : fieldX (encode i) ≠ vf) : t.reg vf = s.reg vf := by
  cases i
  case op8XY4 x y | op8XY5 x y | op8XY6 x y | op8XY7 x y | op8XYE x y =>
    exact absurd ⟨x, y, 0, by simp⟩ hflag
  case opDXYN x y n => exact absurd ⟨x, y, n, by simp⟩ hflag
  case op6XNN x nn | op7XNN x nn | opCXNN x nn | opFX07 x =>
    rw [encode, fieldX_regImm] at hx
    cases h
    exact reg_vf_setReg_advance hx _ _
  case op8XY0 x y | op8XY1 x y | op8XY2 x y | op8XY3 x y =>
    rw [encode, fieldX_digits] at hx
    cases h
    exact reg_vf_setReg_advance hx _ _
  case opFX0A x =>
    rw [encode, fieldX_regImm] at hx
    simp only [exec, execFX0A] at h
    split at h <;> cases h
    · rfl
    · exact reg_vf_setReg_advance hx _ _
  case opFX55 x =>
    cases h
    rw [State.reg_advance, State.reg_advanceIndex, State.reg_storeRegs]
  case opFX65 x =>
    rw [encode, fieldX_regImm] at hx
    cases h
    rw [State.reg_advance, State.reg_advanceIndex, s.reg_vf_loadRegs hx]
  case op00EE =>
    obtain ⟨_, rfl⟩ := s.pop_next (show s.pop (fun a t => t.setPc (a + 2)) = _ from h)
    rfl
  case op2NNN nnn =>
    obtain ⟨_, rfl⟩ := s.push_next (show s.push s.pc (fun t => t.setPc nnn) = _ from h)
    rfl
  all_goals
    cases h
    rfl

/-! ## The flag writers -/

theorem flagByte_decide (p : Prop) [Decidable p] : flagByte (decide p) = if p then 1 else 0 := by
  simp [flagByte]

theorem flagByte_eq_zero_or_one (c : Bool) : flagByte c = 0 ∨ flagByte c = 1 := by
  cases c <;> decide

theorem flagByte_eq_one_iff {c : Bool} : flagByte c = 1 ↔ c = true := by
  cases c <;> decide

/-- With X other than F the flag is what VF holds after the two writes of spec/42_alu.md R140. -/
theorem State.reg_vf_writeFlagged {x : Nibble} (hx : x ≠ vf) (s : State) (f b : Byte) :
    (s.writeFlagged x f b).reg vf = f := by
  rw [State.reg_writeFlagged, if_neg hx.symm, if_pos rfl]

theorem State.shiftOperand_eq (s : State) (x y : Nibble) :
    s.shiftOperand x y = if s.cfg.shiftSource = .vx then s.reg x else s.reg y := by
  unfold State.shiftOperand
  cases s.cfg.shiftSource <;> rfl

/-- Settles O27, from the frame of VF outside the six instructions and the value each of the six gives it. -/
theorem onlySixInstructionsWriteTheFlag : Obligations.OnlySixInstructionsWriteTheFlag := by
  refine ⟨fun i s t hexec hnot hx => exec_reg_vf hexec (not_writesFlag_iff.2 hnot) hx, fun s x y a hx ha => ?five,
    fun s x y n => ?draw⟩
  case five =>
    have hflag := s.reg_vf_writeFlagged hx
    obtain rfl : a = s.shiftOperand x y := ha.trans (s.shiftOperand_eq x y).symm
    exact ⟨⟨_, rfl, (hflag _ _).trans (flagByte_decide _)⟩, ⟨_, rfl, (hflag _ _).trans (flagByte_decide _)⟩,
      ⟨_, rfl, hflag _ _⟩, ⟨_, rfl, (hflag _ _).trans (flagByte_decide _)⟩, ⟨_, rfl, hflag _ _⟩⟩
  case draw =>
    refine ⟨s.drawn x y n, exec_opDXYN x y n s, ?_⟩
    rw [s.reg_vf_drawn]
    exact ⟨flagByte_eq_zero_or_one _, flagByte_eq_one_iff.trans (drawSprite_hit_iff_cell_erased x y n)⟩

end Sys2Proof.Machine
end

section
/-! SUPPORT. The key flags (spec/10_state.md R33), the power-on state (R37) and its invariant. -/

namespace Sys2Proof.Machine

/-! ## Who writes the key flags -/

@[simp] theorem State.writeBytes_keys (s : State) (a : Addr) (bs : List Byte) : (s.writeBytes a bs).keys = s.keys := by
  obtain ⟨m, hm⟩ := State.writeBytes_mem_only bs s a
  rw [hm]

theorem step_next_keys {s t : State} (h : step s = .next t) : t.keys = s.keys := by
  obtain ⟨i, -, hexec⟩ := step_next h
  obtain ⟨hkeys, -⟩ := exec_writes hexec
  exact hkeys

theorem operate_keys {op : Operation} (hkey : ∀ k p, op ≠ .setKey k p) (hreset : op ≠ .reset) (s : State) :
    (operate op s).1.keys = s.keys := by
  rcases operate_cases op s with
    hsame | ⟨bytes, -, -, hload⟩ | ⟨-, hstep⟩ | ⟨-, htick⟩ | ⟨k, p, hop, -⟩ | ⟨hop, -⟩
  · rw [hsame]
  · rw [hload, State.writeBytes_keys]
  · exact step_next_keys hstep
  · rw [htick, State.tickTimers_keys]
  · exact absurd hop (hkey k p)
  · exact absurd hop hreset

/-- Settles O46, from what one operation does to the key flags. -/
theorem keysAreWrittenOnlyByTheHost : Obligations.KeysAreWrittenOnlyByTheHost := fun op s hkey hreset k => by
  rw [State.keyDown, operate_keys hkey hreset s, State.keyDown]

/-! ## The power-on state -/

@[simp] theorem State.reg_powerOn (cfg : Config) (draws : Nat) (r : Nibble) : (State.powerOn cfg draws).reg r = 0 := by
  simp [State.reg]

@[simp] theorem State.keyDown_powerOn (cfg : Config) (draws : Nat) (k : Nibble) :
    (State.powerOn cfg draws).keyDown k = false := by
  simp [State.keyDown]

theorem State.readByte_powerOn (cfg : Config) (draws : Nat) (a : Addr) :
    (State.powerOn cfg draws).readByte a = Memory.unlisted cfg.glyphs a.toNat := rfl

/-- Row `r` of digit `d` stands at 0x050 + 5 d + r (spec/20_memory.md R55). -/
theorem Memory.unlisted_glyph (glyphs : Glyphs) {d r : Nat} (hd : d < 16) (hr : r < 5) :
    Memory.unlisted glyphs (0x050 + 5 * d + r) = glyphs[d][r] := by
  have hdigit : (0x050 + 5 * d + r - 0x050) / 5 = d := by omega
  have hrow : (0x050 + 5 * d + r - 0x050) % 5 = r := by omega
  rw [Memory.unlisted, dif_pos (by omega)]
  simp only [hdigit, hrow]

theorem Memory.unlisted_outside (glyphs : Glyphs) {a : Nat} (ha : a < 0x050 ∨ 0x0A0 ≤ a) :
    Memory.unlisted glyphs a = 0 := dif_neg (by omega)

theorem State.powerOn_values (cfg : Config) (draws : Nat) : PowerOnValues cfg.glyphs (State.powerOn cfg draws) := by
  refine ⟨State.reg_powerOn cfg draws, rfl, rfl, rfl, fun j hj => ?stack, rfl, rfl, State.pixel_powerOn cfg draws,
    State.keyDown_powerOn cfg draws, fun d hd r hr => ?glyph, fun a ha => ?rest⟩
  case stack => exact Vector.getElem_replicate hj
  case glyph =>
    have haddr : (BitVec.ofNat 12 (0x050 + 5 * d + r)).toNat = 0x050 + 5 * d + r := by
      rw [BitVec.toNat_ofNat]
      omega
    rw [State.readByte_powerOn, haddr, Memory.unlisted_glyph cfg.glyphs hd hr]
  case rest => rw [State.readByte_powerOn, Memory.unlisted_outside cfg.glyphs ha]

/-- Settles O59: the values for every core, and reset as the core with the default parameters. -/
theorem powerOnStateHasTheSpecsValues : Obligations.PowerOnStateHasTheSpecsValues :=
  ⟨State.powerOn_values, State.powerOn_values Config.default 0⟩

/-- Nothing is listed at power-on, so its memory is canonical. -/
theorem State.powerOn_inv {cfg : Config} (hcfg : cfg.wellFormed = true) (draws : Nat) : (State.powerOn cfg draws).Inv :=
  ⟨rfl, hcfg⟩

theorem config_default_wellFormed : Config.default.wellFormed = true := rfl

/-- Settles O50: reset is the power-on state with the default parameters, which are allowed. -/
theorem resetHasTheInvariant : Obligations.ResetHasTheInvariant :=
  ⟨State.powerOn_inv config_default_wellFormed 0, fun _ draws hcfg => State.powerOn_inv hcfg draws⟩

end Sys2Proof.Machine
end

section
/-! SUPPORT. What every step keeps (spec/20_memory.md R50, R51, log 12): a step writes memory byte by byte or not at all,
and never the parameters. -/

namespace Sys2Proof.Machine

variable {s t : State}

theorem State.Inv.of_mem_cfg (h : s.Inv) (hmem : t.mem = s.mem) (hcfg : t.cfg = s.cfg) : t.Inv := by
  rw [State.Inv, hmem, hcfg]
  exact h

theorem State.Inv.writeByte (h : s.Inv) (a : Addr) (b : Byte) : (s.writeByte a b).Inv := by
  obtain ⟨hmem, hcfg⟩ := h
  exact ⟨s.writeByte_wf hmem a b, hcfg⟩

theorem State.Inv.storeRegs (h : s.Inv) : ∀ n, (s.storeRegs n).Inv
  | 0 => h
  | n + 1 => (State.Inv.storeRegs h n).writeByte (s.ea n) (s.reg (BitVec.ofNat 4 n))

theorem State.Inv.advanceIndex (h : s.Inv) (x : Nibble) : (s.advanceIndex x).Inv := by
  obtain ⟨w, hw⟩ := s.advanceIndex_i_only x
  rw [hw]
  exact h.of_mem_cfg rfl rfl

theorem State.Inv.advance (h : s.Inv) : s.advance.Inv := h.of_mem_cfg s.advance_mem s.advance_cfg

/-- FX33 and FX55 are the only two instructions that write memory (spec/40_cycle.md R109). -/
theorem exec_keeps_inv {i : Instr} (hexec : exec i s = .next t) (hs : s.Inv) : t.Inv := by
  obtain ⟨-, hcfg, -, -, hmem, -⟩ := exec_writes hexec
  rcases hmem with hmem | ⟨x, rfl⟩ | ⟨x, rfl⟩
  · exact hs.of_mem_cfg hmem hcfg
  · cases hexec
    exact (((hs.writeByte _ _).writeByte _ _).writeByte _ _).advance
  · cases hexec
    exact ((hs.storeRegs (x.toNat + 1)).advanceIndex x).advance

/-- Settles O49: a step that answers executed one instruction, and each instruction keeps the invariant. -/
theorem stepKeepsTheInvariant : Obligations.StepKeepsTheInvariant := fun _ _ hs hstep => by
  obtain ⟨i, -, hexec⟩ := step_next hstep
  exact exec_keeps_inv hexec hs

end Sys2Proof.Machine
end

section
/-! SUPPORT. The canonical form of a memory is unique (log 12): the least address that one memory lists and the other does
not reads differently in the two. -/

namespace Sys2Proof.Machine

variable {g : Glyphs}

/-- The first listed address reads as no memory that lists only addresses above it. -/
theorem Memory.read_head_ne {low a : Nat} {v : Byte} {rest m : Memory}
    (h : Memory.wfFrom g low ((a, v) :: rest) = true) (habove : Memory.wfFrom g (a + 1) m = true) :
    Memory.read g a ((a, v) :: rest) ≠ Memory.read g a m := by
  obtain ⟨-, -, hv, -⟩ := (Memory.wfFrom_cons g low a v rest).1 h
  rw [Memory.read_cons, if_pos rfl, Memory.read_below g (Nat.lt_succ_self a) habove]
  exact hv

theorem Memory.wfFrom_cons_of_lt {low a b : Nat} {w : Byte} {rest : Memory} (hab : a < b)
    (h : Memory.wfFrom g low ((b, w) :: rest) = true) : Memory.wfFrom g (a + 1) ((b, w) :: rest) = true := by
  obtain ⟨-, hb⟩ := (Memory.wfFrom_cons g low b w rest).1 h
  exact (Memory.wfFrom_cons g (a + 1) b w rest).2 ⟨hab, hb⟩

theorem Memory.eq_of_read_eq : ∀ {m m' : Memory} {low : Nat}, Memory.wfFrom g low m = true →
    Memory.wfFrom g low m' = true → (∀ a, low ≤ a → a < 4096 → Memory.read g a m = Memory.read g a m') → m = m'
  | [], [], _, _, _, _ => rfl
  | [], (b, w) :: rest', low, _, h', hread => by
    obtain ⟨hlow, htop, -⟩ := (Memory.wfFrom_cons g low b w rest').1 h'
    exact absurd (hread b hlow htop).symm (Memory.read_head_ne h' rfl)
  | (a, v) :: rest, [], low, h, _, hread => by
    obtain ⟨hlow, htop, -⟩ := (Memory.wfFrom_cons g low a v rest).1 h
    exact absurd (hread a hlow htop) (Memory.read_head_ne h rfl)
  | (a, v) :: rest, (b, w) :: rest', low, h, h', hread => by
    obtain ⟨halow, hatop, -, hrest⟩ := (Memory.wfFrom_cons g low a v rest).1 h
    obtain ⟨hblow, hbtop, -, hrest'⟩ := (Memory.wfFrom_cons g low b w rest').1 h'
    rcases Nat.lt_trichotomy a b with hlt | rfl | hgt
    · exact absurd (hread a halow hatop) (Memory.read_head_ne h (Memory.wfFrom_cons_of_lt hlt h'))
    · have hv : v = w := by simpa [Memory.read_cons] using hread a halow hatop
      have htail : rest = rest' := Memory.eq_of_read_eq hrest hrest' fun c hac hc => by
        have hne : a ≠ c := by omega
        simpa [Memory.read_cons, hne] using hread c (by omega) hc
      rw [hv, htail]
    · exact absurd (hread b hblow hbtop).symm (Memory.read_head_ne h' (Memory.wfFrom_cons_of_lt hgt h))

/-- Settles O52: the induction over both lists, from the lowest address 0. -/
theorem canonicalMemoryIsUnique : Obligations.CanonicalMemoryIsUnique := fun _ _ _ h h' hread =>
  Memory.eq_of_read_eq h h' fun a _ ha => hread a ha

end Sys2Proof.Machine
end

section
/-! SUPPORT. `Load` (spec/20_memory.md R56, R57), and the fetched word and its placing at the program counter (R52, R53,
spec/40_cycle.md R101). -/

namespace Sys2Proof.Machine

/-! ## `Load` -/

theorem operate_load_fits {bytes : List Byte} (h : bytes.length ≤ 3584) (s : State) :
    operate (.load bytes) s = (s.writeBytes 0x200 bytes, .done) := by
  have hfits : imageWellFormed bytes = true := decide_eq_true h
  rw [operate, loadImage, if_pos hfits, settle_next]

theorem operate_load_tooLarge {bytes : List Byte} (h : bytes.length > 3584) (s : State) :
    operate (.load bytes) s = (s, .err .romTooLarge) := by
  have hlong : ¬ imageWellFormed bytes = true := fun e => Nat.not_le_of_gt h (of_decide_eq_true e)
  rw [operate, loadImage, if_neg hlong, raise, settle_fault]

/-- A byte of the largest image lies below the top of memory, so its address does not wrap (R56). -/
theorem imageAddr_toNat {j : Nat} (h : j < 3584) : (0x200#12 + BitVec.ofNat 12 j).toNat = 0x200 + j := by
  rw [BitVec.toNat_add, BitVec.toNat_ofNat, BitVec.toNat_ofNat]
  omega

theorem State.readByte_loaded_outside {bytes : List Byte} (h : bytes.length ≤ 3584) (s : State) {a : Addr}
    (ha : a.toNat < 0x200 ∨ 0x200 + bytes.length ≤ a.toNat) : (s.writeBytes 0x200 bytes).readByte a = s.readByte a :=
  State.writeBytes_readByte_other bytes s 0x200 a fun j hj e => by
    have haddr := (congrArg BitVec.toNat e).trans (imageAddr_toNat (by omega))
    omega

theorem State.readByte_loaded {bytes : List Byte} (h : bytes.length ≤ 3584) {s : State} (hs : s.Inv) {j : Nat}
    (hj : j < bytes.length) : (s.writeBytes 0x200 bytes).readByte (BitVec.ofNat 12 (0x200 + j)) = bytes[j] := by
  obtain ⟨hmem, -⟩ := hs
  rw [BitVec.ofNat_add]
  exact State.writeBytes_readByte bytes s 0x200 hmem (by omega) j hj

/-- Writing bytes changes nothing but memory. -/
theorem State.writeBytes_frame (bytes : List Byte) (s : State) (a : Addr) :
    SameRegs s (s.writeBytes a bytes) ∧ (s.writeBytes a bytes).i = s.i ∧ (s.writeBytes a bytes).pc = s.pc ∧
      SameScreen s (s.writeBytes a bytes) ∧ SameStack s (s.writeBytes a bytes) ∧ SameTimers s (s.writeBytes a bytes) ∧
      SameKeys s (s.writeBytes a bytes) ∧ SameModelFields s (s.writeBytes a bytes) := by
  obtain ⟨m, hm⟩ := State.writeBytes_mem_only bytes s a
  rw [hm]
  exact ⟨fun _ => rfl, rfl, rfl, fun _ _ => rfl, ⟨rfl, fun _ _ => rfl⟩, ⟨rfl, rfl⟩, fun _ => rfl, rfl, rfl⟩

/-- Settles O57: what the image's own addresses read, what the others read, and the frame. -/
theorem loadWritesTheImage : Obligations.LoadWritesTheImage := fun bytes s h =>
  ⟨s.writeBytes 0x200 bytes, operate_load_fits h s, fun hs _ hj => State.readByte_loaded h hs hj,
    fun _ ha => s.readByte_loaded_outside h ha, State.writeBytes_frame bytes s 0x200⟩

/-- Settles O58: a long image is refused in every state, and one that fits is taken in every state. -/
theorem loadRejectsALongImage : Obligations.LoadRejectsALongImage := fun _ s h =>
  ⟨operate_load_tooLarge h s, fun _ hshorter => congrArg Prod.snd (operate_load_fits hshorter _)⟩

/-! ## The fetched word -/

theorem wordOfBytes_toNat (first second : Byte) :
    (wordOfBytes first second).toNat = first.toNat * 256 + second.toNat := by
  rw [wordOfBytes, BitVec.toNat_append, ← Nat.shiftLeft_add_eq_or_of_lt second.isLt, Nat.shiftLeft_eq]

theorem addr_succ_eq_ofNat (a : Addr) : a + 1 = BitVec.ofNat 12 (a.toNat + 1) := by
  rw [BitVec.ofNat_add, BitVec.ofNat_toNat, BitVec.setWidth_eq]
  rfl

/-- Settles O5, from the value of a word by its bytes and the address after `pc`, which wraps. -/
theorem fetchIsBigEndianAtPc : Obligations.FetchIsBigEndianAtPc := fun s => by
  rw [State.fetchWord, wordOfBytes_toNat, addr_succ_eq_ofNat]

/-! ## A word placed at the program counter (log 20) -/

theorem tableWord_toNat {w : Nat} (h : w < 65536) : (tableWord 16 w).toNat = w := by
  rw [tableWord, Nat.min_self, BitVec.toNat_ofNat]
  omega

theorem decodeTableWord_eq_some_iff {nbits w : Nat} {i : Instr} :
    decodeTableWord nbits w = some i ↔ decodeWord (tableWord nbits w) = .ok i := by
  rw [decodeTableWord, ← List.append_nil (bytesOfWord _), decode_bytesOfWord]
  cases decodeWord (tableWord nbits w) <;> simp [Except.map]

theorem State.Inv.fetchWord_withFetchWord {s : State} (hs : s.Inv) (nbits w : Nat) :
    (s.withFetchWord nbits w).fetchWord = tableWord nbits w := by
  obtain ⟨hmem, -⟩ := hs
  exact s.fetchWord_storeAtPc hmem _

/-- Settles O7: the placed word is fetched back, and `step` executes what it decodes to. -/
theorem placedWordIsRunNext : Obligations.PlacedWordIsRunNext := fun s w i hs hw hdec => by
  have hfetch := hs.fetchWord_withFetchWord 16 w
  have hdecode : decodeWord (s.withFetchWord 16 w).fetchWord = .ok i := by
    rw [hfetch]
    exact decodeTableWord_eq_some_iff.1 hdec
  exact ⟨by rw [hfetch, tableWord_toNat hw], step_of_decode hdecode⟩

end Sys2Proof.Machine
end

section
/-! SUPPORT. The decoder inverts the encoder (spec/30_encoding.md R82, R84, R85, R86): what a category of R85 answers, a word
put together again from its fields, and the fields that a row of R84 fixes. -/

namespace Sys2Proof

variable {op : Word} {i : Instr}

/-! ## The categories that look at more than `C` (R85) -/

theorem decodeWord_category8 (hc : fieldC op = 0x8#4) : decodeWord op = decodeCategory8 op := by
  simp only [decodeWord, hc]

theorem decodeWord_categoryE (hc : fieldC op = 0xE#4) : decodeWord op = decodeCategoryE op := by
  simp only [decodeWord, hc]

theorem decodeWord_categoryF (hc : fieldC op = 0xF#4) : decodeWord op = decodeCategoryF op := by
  simp only [decodeWord, hc]

/-! ## Decoding an encoded instruction -/

/-- One case per format of R82: the decoder reads back the digits that the encoder wrote. -/
theorem decodeWord_encode (i : Instr) : decodeWord (encode i) = .ok i := by
  cases i
  case op00E0 | op00EE => rfl
  case op1NNN nnn | op2NNN nnn | opANNN nnn | opBNNN nnn =>
    simp only [encode, decodeWord, fieldC_addr, fieldNNN_addr]
  case op3XNN x nn | op4XNN x nn | op6XNN x nn | op7XNN x nn | opCXNN x nn =>
    simp only [encode, decodeWord, fieldC_regImm, fieldX_regImm, fieldNN_regImm]
  case op5XY0 x y | op9XY0 x y =>
    simp only [encode, decodeWord, fieldC_digits, fieldX_digits, fieldY_digits, fieldN_digits]
    rfl
  case op8XY0 x y | op8XY1 x y | op8XY2 x y | op8XY3 x y | op8XY4 x y | op8XY5 x y | op8XY6 x y | op8XY7 x y
      | op8XYE x y =>
    rw [encode, decodeWord_category8 (fieldC_digits ..)]
    simp only [decodeCategory8, fieldX_digits, fieldY_digits, fieldN_digits]
  case opDXYN x y n =>
    simp only [encode, decodeWord, fieldC_digits, fieldX_digits, fieldY_digits, fieldN_digits]
  case opEX9E x | opEXA1 x =>
    rw [encode, decodeWord_categoryE (fieldC_regImm ..)]
    simp only [decodeCategoryE, fieldX_regImm, fieldNN_regImm]
  case opFX07 x | opFX0A x | opFX15 x | opFX18 x | opFX1E x | opFX29 x | opFX33 x | opFX55 x | opFX65 x =>
    rw [encode, decodeWord_categoryF (fieldC_regImm ..)]
    simp only [decodeCategoryF, fieldX_regImm, fieldNN_regImm]

/-- Settles O1: on the word by format, on the bytes since a word is fetched whole from its two bytes. -/
theorem decodeOfEncodeIsIdentity : Obligations.DecodeOfEncodeIsIdentity := fun i _ =>
  ⟨decodeWord_encode i, fun rest => by rw [decode_bytesOfWord, decodeWord_encode, Except.map]⟩

/-! ## A word is the digits of its fields (R81): a format whose fields cover the word loses no bit -/

theorem eq_of_fields_addr {c : Nibble} (hc : fieldC op = c) : c ++ fieldNNN op = op := by
  have e : fieldC op ++ fieldNNN op = op.extractLsb' 0 (4 + 12) :=
    BitVec.extractLsb'_append_extractLsb'_eq_extractLsb' rfl
  exact hc ▸ e.trans BitVec.extractLsb'_eq_self

theorem fieldX_append_fieldNN (op : Word) : fieldX op ++ fieldNN op = fieldNNN op :=
  BitVec.extractLsb'_append_extractLsb'_eq_extractLsb' rfl

theorem fieldY_append_fieldN (op : Word) : fieldY op ++ fieldN op = fieldNN op :=
  BitVec.extractLsb'_append_extractLsb'_eq_extractLsb' rfl

theorem eq_of_fields_regImm {c : Nibble} (hc : fieldC op = c) : c ++ fieldX op ++ fieldNN op = op := by
  rw [BitVec.append_assoc, fieldX_append_fieldNN]
  exact eq_of_fields_addr hc

theorem eq_of_fields_regSub {c : Nibble} {nn : Byte} (hc : fieldC op = c) (hnn : fieldNN op = nn) :
    c ++ fieldX op ++ nn = op :=
  hnn ▸ eq_of_fields_regImm hc

theorem eq_of_fields_digits {c n : Nibble} (hc : fieldC op = c) (hn : fieldN op = n) :
    c ++ fieldX op ++ fieldY op ++ n = op := by
  subst hn
  rw [BitVec.append_assoc, fieldY_append_fieldN]
  exact eq_of_fields_regImm hc

/-! ## Encoding what a word decodes to -/

theorem encode_of_decodeCategory0 (h : decodeCategory0 op = .ok i) : encode i = op := by
  rw [decodeCategory0] at h
  split at h
  case isTrue hop => cases h; exact hop.symm
  case isFalse =>
    split at h
    case isTrue hop => cases h; exact hop.symm
    case isFalse => cases h

theorem encode_of_decodeCategory8 (hc : fieldC op = 0x8#4) (h : decodeCategory8 op = .ok i) : encode i = op := by
  rw [decodeCategory8] at h
  split at h <;> cases h
  all_goals exact eq_of_fields_digits hc ‹fieldN op = _›

theorem encode_of_decodeCategoryE (hc : fieldC op = 0xE#4) (h : decodeCategoryE op = .ok i) : encode i = op := by
  rw [decodeCategoryE] at h
  split at h <;> cases h
  all_goals exact eq_of_fields_regSub hc ‹fieldNN op = _›

theorem encode_of_decodeCategoryF (hc : fieldC op = 0xF#4) (h : decodeCategoryF op = .ok i) : encode i = op := by
  rw [decodeCategoryF] at h
  split at h <;> cases h
  all_goals exact eq_of_fields_regSub hc ‹fieldNN op = _›

/-- One case per category of R85: each puts a word together again from all of its digits. -/
theorem encode_of_decodeWord (h : decodeWord op = .ok i) : encode i = op := by
  rw [decodeWord] at h
  split at h
  case h_1 => exact encode_of_decodeCategory0 h
  case h_2 hc | h_3 hc | h_11 hc | h_12 hc => cases h; exact eq_of_fields_addr hc
  case h_4 hc | h_5 hc | h_7 hc | h_8 hc | h_13 hc => cases h; exact eq_of_fields_regImm hc
  case h_6 hc | h_10 hc =>
    split at h
    case isTrue hn => cases h; exact eq_of_fields_digits hc hn
    case isFalse => cases h
  case h_9 hc => exact encode_of_decodeCategory8 hc h
  case h_14 hc => cases h; exact eq_of_fields_digits hc rfl
  case h_15 hc => exact encode_of_decodeCategoryE hc h
  case h_16 hc => exact encode_of_decodeCategoryF hc h
  case h_17 => cases h

/-- Settles O2: whichever category answers `i`, the fields it looks at and those it hands to `i` are the whole word. -/
theorem noBitOfAWordIsIgnored : Obligations.NoBitOfAWordIsIgnored := fun _ _ => encode_of_decodeWord

/-! ## The rows of R84 -/

/-- Every instruction's word lies in its row. -/
theorem encodingRow : ∀ i : Instr, Laws.EncodingRow.Statement i
  | .op00E0 => Laws.EncodingRow.op00E0
  | .op00EE => Laws.EncodingRow.op00EE
  | .op1NNN nnn => Laws.EncodingRow.op1NNN nnn
  | .op2NNN nnn => Laws.EncodingRow.op2NNN nnn
  | .op3XNN x nn => Laws.EncodingRow.op3XNN x nn
  | .op4XNN x nn => Laws.EncodingRow.op4XNN x nn
  | .op5XY0 x y => Laws.EncodingRow.op5XY0 x y
  | .op6XNN x nn => Laws.EncodingRow.op6XNN x nn
  | .op7XNN x nn => Laws.EncodingRow.op7XNN x nn
  | .op8XY0 x y => Laws.EncodingRow.op8XY0 x y
  | .op8XY1 x y => Laws.EncodingRow.op8XY1 x y
  | .op8XY2 x y => Laws.EncodingRow.op8XY2 x y
  | .op8XY3 x y => Laws.EncodingRow.op8XY3 x y
  | .op8XY4 x y => Laws.EncodingRow.op8XY4 x y
  | .op8XY5 x y => Laws.EncodingRow.op8XY5 x y
  | .op8XY6 x y => Laws.EncodingRow.op8XY6 x y
  | .op8XY7 x y => Laws.EncodingRow.op8XY7 x y
  | .op8XYE x y => Laws.EncodingRow.op8XYE x y
  | .op9XY0 x y => Laws.EncodingRow.op9XY0 x y
  | .opANNN nnn => Laws.EncodingRow.opANNN nnn
  | .opBNNN nnn => Laws.EncodingRow.opBNNN nnn
  | .opCXNN x nn => Laws.EncodingRow.opCXNN x nn
  | .opDXYN x y n => Laws.EncodingRow.opDXYN x y n
  | .opEX9E x => Laws.EncodingRow.opEX9E x
  | .opEXA1 x => Laws.EncodingRow.opEXA1 x
  | .opFX07 x => Laws.EncodingRow.opFX07 x
  | .opFX0A x => Laws.EncodingRow.opFX0A x
  | .opFX15 x => Laws.EncodingRow.opFX15 x
  | .opFX18 x => Laws.EncodingRow.opFX18 x
  | .opFX1E x => Laws.EncodingRow.opFX1E x
  | .opFX29 x => Laws.EncodingRow.opFX29 x
  | .opFX33 x => Laws.EncodingRow.opFX33 x
  | .opFX55 x => Laws.EncodingRow.opFX55 x
  | .opFX65 x => Laws.EncodingRow.opFX65 x

/-- The `match` column is a word of the row itself, with every free digit 0. -/
theorem exists_row_eq {r : OpcodeRow} (hr : r ∈ opcodeTable) : ∃ i : Instr, i.row = r := by
  have hdec : ∀ r ∈ opcodeTable, (decodeWord r.value).toOption.map Instr.row = some r := by decide
  obtain ⟨i, -, hi⟩ := Option.map_eq_some_iff.1 (hdec r hr)
  exact ⟨i, hi⟩

/-- Two rows differ in a bit that both of them fix. -/
theorem opcodeTable_disjoint : ∀ r ∈ opcodeTable, ∀ r' ∈ opcodeTable,
    r.value &&& r'.mask = r'.value &&& r.mask → r = r' := by decide

theorem row_eq_of_match {r r' : OpcodeRow} (hr : r ∈ opcodeTable) (hr' : r' ∈ opcodeTable)
    (h : op &&& r.mask = r.value) (h' : op &&& r'.mask = r'.value) : r = r' := by
  refine opcodeTable_disjoint r hr r' hr' ?_
  rw [← h, ← h', BitVec.and_assoc, BitVec.and_assoc, BitVec.and_comm r.mask]

/-! ## A field that a row's mask keeps whole -/

section
variable {mask value : Word}

theorem fieldC_of_match (h : op &&& mask = value) (hm : fieldC mask = 0xF#4) : fieldC op = fieldC value := by
  rw [← h, fieldC, fieldC, BitVec.extractLsb'_and, ← fieldC, ← fieldC, hm, Laws.nibble_and_ones]

theorem fieldN_of_match (h : op &&& mask = value) (hm : fieldN mask = 0xF#4) : fieldN op = fieldN value := by
  rw [← h, fieldN, fieldN, BitVec.extractLsb'_and, ← fieldN, ← fieldN, hm, Laws.nibble_and_ones]

theorem fieldNN_of_match (h : op &&& mask = value) (hm : fieldNN mask = 0xFF#8) : fieldNN op = fieldNN value := by
  rw [← h, fieldNN, fieldNN, BitVec.extractLsb'_and, ← fieldNN, ← fieldNN, hm, Laws.byte_and_ones]

end

/-- One case per mask: the row fixes every field by which the decoder selects. -/
theorem decodes_of_row (j : Instr) (h : op &&& j.row.mask = j.row.value) : ∃ i, decodeWord op = .ok i := by
  cases j
  all_goals dsimp only [Instr.row] at h
  case op00E0 | op00EE =>
    obtain rfl := BitVec.and_allOnes.symm.trans h
    exact ⟨_, rfl⟩
  case op1NNN | op2NNN | op3XNN | op4XNN | op6XNN | op7XNN | opANNN | opBNNN | opCXNN | opDXYN =>
    have hc := fieldC_of_match h rfl
    rw [decodeWord, hc]
    exact ⟨_, rfl⟩
  case op5XY0 | op9XY0 =>
    have hc := fieldC_of_match h rfl
    have hn := fieldN_of_match h rfl
    rw [decodeWord, hc, hn]
    exact ⟨_, rfl⟩
  case op8XY0 | op8XY1 | op8XY2 | op8XY3 | op8XY4 | op8XY5 | op8XY6 | op8XY7 | op8XYE =>
    have hc := decodeWord_category8 (fieldC_of_match h rfl)
    have hn := fieldN_of_match h rfl
    rw [hc, decodeCategory8, hn]
    exact ⟨_, rfl⟩
  case opEX9E | opEXA1 =>
    have hc := decodeWord_categoryE (fieldC_of_match h rfl)
    have hnn := fieldNN_of_match h rfl
    rw [hc, decodeCategoryE, hnn]
    exact ⟨_, rfl⟩
  case opFX07 | opFX0A | opFX15 | opFX18 | opFX1E | opFX29 | opFX33 | opFX55 | opFX65 =>
    have hc := decodeWord_categoryF (fieldC_of_match h rfl)
    have hnn := fieldNN_of_match h rfl
    rw [hc, decodeCategoryF, hnn]
    exact ⟨_, rfl⟩

theorem row_of_decodeWord (h : decodeWord op = .ok i) : op &&& i.row.mask = i.row.value ∧ i.row ∈ opcodeTable :=
  encode_of_decodeWord h ▸ encodingRow i

/-- Settles O3: a decoded word lies in its instruction's row, a row's words decode, and no word lies in two rows. -/
theorem decodesIffItMatchesItsRow : Obligations.DecodesIffItMatchesItsRow := by
  refine ⟨fun op => ⟨?toRow, ?ofRow⟩, fun op i h r hr => ?unique⟩
  case toRow =>
    rintro ⟨i, h⟩
    obtain ⟨hmatch, hmem⟩ := row_of_decodeWord h
    exact ⟨i.row, hmem, hmatch⟩
  case ofRow =>
    rintro ⟨r, hr, hmatch⟩
    obtain ⟨j, rfl⟩ := exists_row_eq hr
    exact decodes_of_row j hmatch
  case unique =>
    obtain ⟨hmatch, hmem⟩ := row_of_decodeWord h
    constructor
    · exact fun hr' => row_eq_of_match hr hmem hr' hmatch
    · rintro rfl
      exact hmatch

/-- Settles O4: the words of instructions are the encoder's, and the two others fall through their categories. -/
theorem sampleWordsDecode : Obligations.SampleWordsDecode :=
  ⟨decodeWord_encode .op00E0, decodeWord_encode .op00EE, decodeWord_encode (.op2NNN 0xFFF),
    decodeWord_encode (.op6XNN 0xA 0x05), decodeWord_encode (.op8XY7 0xA 0xB), decodeWord_encode (.opDXYN 0x1 0x2 0x3),
    decodeWord_encode (.opEXA1 0xF), decodeWord_encode (.opFX55 0x3), rfl, rfl⟩

end Sys2Proof
end

section
/-! SUPPORT. The execution cycle (spec/40_cycle.md R100 to R109): what a step runs, when it waits for a key, and what it
writes. -/

namespace Sys2Proof.Machine

variable {s t : State}

/-! ## What a step runs (R100, R103) -/

theorem decode_cons_cons_eq_ok_iff {first second : Byte} {rest after : List Byte} {i : Instr} :
    decode (first :: second :: rest) = .ok (i, after) ↔
      decodeWord (wordOfBytes first second) = .ok i ∧ after = rest := by
  rw [decode]
  cases decodeWord (wordOfBytes first second) <;> simp [Except.map, eq_comm]

/-- Settles O6: the two bytes at `pc` make the word a step fetches, and the byte decoder takes no third. -/
theorem stepRunsTheDecodedInstruction : Obligations.StepRunsTheDecodedInstruction := fun _ _ _ _ hdecode _ => by
  obtain ⟨hword, hrest⟩ := decode_cons_cons_eq_ok_iff.mp hdecode
  exact ⟨step_of_decode hword, hrest⟩

/-! ## When a step waits for a key (R106) -/

theorem instrOutcome_eq_waiting_iff {i : Instr} :
    instrOutcome i s = .waitingForKey ↔ (∃ x, i = .opFX0A x) ∧ ∀ k, s.keyDown k = false := by
  rw [← State.selectKey_none]
  cases i
  case opFX0A x => simp [instrOutcome]
  all_goals simp [instrOutcome]

theorem stepOutcome_eq_waiting_iff : stepOutcome s = .waitingForKey ↔
    (∃ x, decodeWord s.fetchWord = .ok (.opFX0A x)) ∧ ∀ k, s.keyDown k = false := by
  rw [stepOutcome]
  cases decodeWord s.fetchWord with
  | ok i => simp [instrOutcome_eq_waiting_iff]
  | error e => simp

theorem exec_opFX0A_of_no_key (x : Nibble) (hkeys : ∀ k, s.keyDown k = false) : exec (.opFX0A x) s = .next s := by
  rw [exec, execFX0A, s.selectKey_none.mpr hkeys]

theorem operate_step_eq_of_next (h : step s = .next t) : operate .step s = (t, .stepped (stepOutcome s)) := by
  rw [operate, h, settle_next]

/-- A step that waits raises nothing, and its next state is the state itself. -/
theorem operate_step_of_waiting (h : stepOutcome s = .waitingForKey) :
    operate .step s = (s, .stepped .waitingForKey) := by
  obtain ⟨⟨x, hd⟩, hkeys⟩ := stepOutcome_eq_waiting_iff.mp h
  rw [operate_step_eq_of_next ((step_of_decode hd).trans (exec_opFX0A_of_no_key x hkeys)), h]

theorem stepOutcome_of_response {o : StepOutcome} (h : (operate .step s).2 = .stepped o) : stepOutcome s = o := by
  rw [operate] at h
  cases hstep : step s with
  | next t => simpa [hstep] using h
  | fault e => simp [hstep] at h
  | refused r => simp [hstep] at h

theorem response_waiting_iff : (operate .step s).2 = .stepped .waitingForKey ↔ stepOutcome s = .waitingForKey :=
  ⟨stepOutcome_of_response, fun h => by rw [operate_step_of_waiting h]⟩

/-- Settles O9: a step answers that it waits exactly where `stepOutcome` says so, and `Advanced` is the only other
outcome. -/
theorem waitsExactlyAtFX0AWithNoKey : Obligations.WaitsExactlyAtFX0AWithNoKey := by
  refine fun s => ⟨response_waiting_iff.trans stepOutcome_eq_waiting_iff, fun hwait => ?waits,
    fun t hstep hnot => ?advances⟩
  case waits => rw [operate_step_of_waiting (response_waiting_iff.mp hwait)]
  case advances =>
    rw [Ne, response_waiting_iff] at hnot
    rw [operate_step_eq_of_next hstep]
    cases ho : stepOutcome s with
    | advanced => rfl
    | waitingForKey => exact absurd ho hnot

/-! ## What a step writes (R107, R109) -/

/-- Settles O45: the executed instruction is the decoded one, and only FX15 and FX18 write a timer. -/
theorem stepNeverTicksATimer : Obligations.StepNeverTicksATimer := fun s t hstep => by
  obtain ⟨i, hd, hexec⟩ := step_next hstep
  obtain ⟨-, -, hdt, hst, -⟩ := exec_writes hexec
  simp only [hd, Except.ok.injEq]
  exact ⟨hdt, hst⟩

theorem SameMemory.of_mem_cfg (hmem : t.mem = s.mem) (hcfg : t.cfg = s.cfg) : SameMemory s t := fun a => by
  rw [State.readByte, hmem, hcfg, State.readByte]

/-- Settles O47: the executed instruction is the decoded one, and memory is read through parameters no step changes. -/
theorem writersOfMemoryIndexAndStack : Obligations.WritersOfMemoryIndexAndStack := fun s t hstep => by
  obtain ⟨i, hd, hexec⟩ := step_next hstep
  obtain ⟨-, hcfg, -, -, hmem, hindex, hstack, hsp, -⟩ := exec_writes hexec
  simp only [hd, Except.ok.injEq]
  refine ⟨?memory, hindex, hstack, hsp⟩
  rw [exists_or]
  exact hmem.imp_left fun hmem => SameMemory.of_mem_cfg hmem hcfg

end Sys2Proof.Machine
end

section
/-! SUPPORT. Control transfer (spec/41_control_flow.md R120 to R128): the state after a jump, a skip, a call and a
return. -/

namespace Sys2Proof.Machine

variable {s t : State}

/-! ## Jumps (R121, R123) -/

theorem onlyPc_setPc (s : State) (a : Addr) : OnlyPc s (s.setPc a) :=
  ⟨fun _ => rfl, rfl, fun _ => rfl, fun _ _ => rfl, ⟨rfl, fun _ _ => rfl⟩, ⟨rfl, rfl⟩, fun _ => rfl, rfl, rfl⟩

theorem State.jumpOffset_of_v0 (h : s.cfg.jumpOffset = .v0) (nnn : Addr) : s.jumpOffset nnn = s.reg 0 := by
  rw [State.jumpOffset, h]

/-- X is the top digit of NNN as a number too. -/
theorem State.jumpOffset_of_vx (h : s.cfg.jumpOffset = .vx) (nnn : Addr) :
    s.jumpOffset nnn = s.reg (BitVec.ofNat 4 (nnn.toNat / 256)) := by
  have hdigit : nnn.extractLsb' 8 4 = BitVec.ofNat 4 (nnn.toNat / 256) := by
    rw [BitVec.extractLsb', Nat.shiftRight_eq_div_pow]
  rw [State.jumpOffset, h, hdigit]

/-- Settles O13: the next state is the state itself with another `pc`. -/
theorem jumpSetsPc : Obligations.JumpSetsPc := fun nnn =>
  ⟨decodeWord_encode (.op1NNN nnn), fun s => ⟨s.setPc nnn, rfl, rfl, onlyPc_setPc s nnn⟩⟩

/-- Settles O15: the target is NNN plus the offset that the parameter selects. -/
theorem jumpWithOffsetAddsARegister : Obligations.JumpWithOffsetAddsARegister := fun nnn =>
  ⟨decodeWord_encode (.opBNNN nnn), fun s =>
    ⟨_, rfl, fun hv0 => by rw [State.setPc_pc, BitVec.toNat_ofNat, State.jumpOffset_of_v0 hv0],
      fun hvx => by rw [State.setPc_pc, BitVec.toNat_ofNat, State.jumpOffset_of_vx hvx], onlyPc_setPc s _⟩⟩

/-! ## Skips (R124 to R127) -/

theorem pcPlus_skipIf (s : State) (c : Bool) : PcPlus s (s.skipIf c) (if c then 4 else 2) := by
  rw [PcPlus, State.skipIf_pc, BitVec.toNat_add]
  cases c <;> rfl

theorem pcPlus_skipIf_beq (s : State) (a b : Byte) : PcPlus s (s.skipIf (a == b)) (if a = b then 4 else 2) := by
  simpa only [beq_iff_eq] using pcPlus_skipIf s (a == b)

theorem pcPlus_skipIf_bne (s : State) (a b : Byte) : PcPlus s (s.skipIf (a != b)) (if a = b then 2 else 4) := by
  simpa only [bne_iff_ne, ite_not] using pcPlus_skipIf s (a != b)

theorem onlyPc_skipIf (s : State) (c : Bool) : OnlyPc s (s.skipIf c) := onlyPc_setPc s _

/-- A word of category 5 or 9 whose last digit is not 0 is no instruction (R88). -/
theorem decodeWord_of_fieldN_ne_zero {op : Word} (hc : fieldC op = 0x5#4 ∨ fieldC op = 0x9#4) (hn : fieldN op ≠ 0) :
    decodeWord op = .error .unknownInstruction := by
  rcases hc with hc | hc <;> simp only [decodeWord, hc, if_neg hn]

/-- Settles O16: both are a skip, on the comparison and on its opposite. -/
theorem immediateSkipsCompareVxWithNn : Obligations.ImmediateSkipsCompareVxWithNn := fun x nn =>
  ⟨decodeWord_encode (.op3XNN x nn), decodeWord_encode (.op4XNN x nn), fun s =>
    ⟨⟨_, rfl, pcPlus_skipIf_beq s _ _, onlyPc_skipIf s _⟩, ⟨_, rfl, pcPlus_skipIf_bne s _ _, onlyPc_skipIf s _⟩⟩⟩

/-- Settles O17: both are a skip, and their categories hold no word with another last digit. -/
theorem registerSkipsCompareVxWithVy : Obligations.RegisterSkipsCompareVxWithVy := fun x y => by
  refine ⟨decodeWord_encode (.op5XY0 x y), decodeWord_encode (.op9XY0 x y), fun n hn => ?illegal, fun s => ?skips⟩
  case illegal =>
    have hlast : ∀ c, fieldN (c ++ x ++ y ++ n) ≠ 0 := fun c => by rwa [fieldN_digits]
    exact ⟨decodeWord_of_fieldN_ne_zero (.inl (fieldC_digits ..)) (hlast _),
      decodeWord_of_fieldN_ne_zero (.inr (fieldC_digits ..)) (hlast _)⟩
  case skips =>
    exact ⟨⟨_, rfl, pcPlus_skipIf_beq s _ _, onlyPc_skipIf s _⟩, ⟨_, rfl, pcPlus_skipIf_bne s _ _, onlyPc_skipIf s _⟩⟩

/-! ## Call and return (R120, R122) -/

/-- The state after a call of NNN from a state with room on the stack. -/
def State.called (s : State) (h : s.sp.val < 16) (nnn : Addr) : State :=
  { s with stack := s.stack.set s.sp.val s.pc, sp := ⟨s.sp.val + 1, by omega⟩ }.setPc nnn

/-- The state after a return from a state with an entry on the stack. -/
def State.returned (s : State) (h : 0 < s.sp.val) : State :=
  { s with sp := ⟨s.sp.val - 1, by omega⟩ }.setPc (s.stack[s.sp.val - 1]'(by omega) + 2)

theorem exec_op2NNN_eq_push (nnn : Addr) (s : State) : exec (.op2NNN nnn) s = s.push s.pc fun u => u.setPc nnn := rfl

theorem exec_op00EE_eq_pop (s : State) : exec .op00EE s = s.pop fun a u => u.setPc (a + 2) := rfl

theorem exec_op2NNN_of_room (h : s.sp.val < 16) (nnn : Addr) : exec (.op2NNN nnn) s = .next (s.called h nnn) :=
  (exec_op2NNN_eq_push nnn s).trans (s.push_room h _ _)

theorem exec_op2NNN_of_full (h : s.sp.val = 16) (nnn : Addr) : exec (.op2NNN nnn) s = .fault .callStackOverflow :=
  (exec_op2NNN_eq_push nnn s).trans (s.push_full h _ _)

theorem exec_op2NNN_next {nnn : Addr} (h : exec (.op2NNN nnn) s = .next t) :
    ∃ hsp : s.sp.val < 16, t = s.called hsp nnn :=
  s.push_next ((exec_op2NNN_eq_push nnn s).symm.trans h)

theorem exec_op00EE_of_entry (h : 0 < s.sp.val) : exec .op00EE s = .next (s.returned h) :=
  (exec_op00EE_eq_pop s).trans (s.pop_some h _)

theorem exec_op00EE_of_empty (h : s.sp.val = 0) : exec .op00EE s = .fault .returnStackUnderflow :=
  (exec_op00EE_eq_pop s).trans (s.pop_empty h _)

theorem State.called_sp (h : s.sp.val < 16) (nnn : Addr) : (s.called h nnn).sp.val = s.sp.val + 1 := rfl

theorem State.called_stack_top (h : s.sp.val < 16) (nnn : Addr) : (s.called h nnn).stack[s.sp.val] = s.pc :=
  Vector.getElem_set_self ..

theorem State.called_stack_other (h : s.sp.val < 16) (nnn : Addr) {j : Nat} (hj : j < 16) (hne : j ≠ s.sp.val) :
    (s.called h nnn).stack[j] = s.stack[j] :=
  Vector.getElem_set_ne h hj hne.symm

theorem State.returned_sp (h : 0 < s.sp.val) : (s.returned h).sp.val = s.sp.val - 1 := rfl

theorem State.returned_pc (h : 0 < s.sp.val) :
    (s.returned h).pc.toNat = ((s.stack[s.sp.val - 1]'(by omega)).toNat + 2) % 4096 :=
  BitVec.toNat_add ..

/-- Frame of a call and of a return: nothing but `pc`, `SP` and the stack entries changes. -/
def OnlyPcAndStack (s t : State) : Prop :=
  SameRegs s t ∧ t.i = s.i ∧ SameMemory s t ∧ SameScreen s t ∧ SameTimers s t ∧ SameKeys s t ∧ SameModelFields s t

theorem onlyPcAndStack_update (s : State) (stack : Vector Addr 16) (sp : Fin 17) (pc : Addr) :
    OnlyPcAndStack s { s with stack := stack, sp := sp, pc := pc } :=
  ⟨fun _ => rfl, rfl, fun _ => rfl, fun _ _ => rfl, ⟨rfl, rfl⟩, fun _ => rfl, rfl, rfl⟩

theorem State.called_frame (h : s.sp.val < 16) (nnn : Addr) : OnlyPcAndStack s (s.called h nnn) :=
  onlyPcAndStack_update s _ _ _

theorem State.returned_frame (h : 0 < s.sp.val) : OnlyPcAndStack s (s.returned h) := onlyPcAndStack_update s _ _ _

/-- Settles O12: what a return does where there is an entry, and that it raises where there is none. -/
theorem returnPopsAndAddsTwo : Obligations.ReturnPopsAndAddsTwo :=
  ⟨decodeWord_encode .op00EE, fun s =>
    ⟨fun h => ⟨s.returned h, exec_op00EE_of_entry h, State.returned_pc h, State.returned_sp h, fun _ _ => rfl,
      State.returned_frame h⟩, exec_op00EE_of_empty⟩⟩

/-- Settles O14: what a call does where there is room, and that it raises where there is none. -/
theorem callPushesItsOwnAddress : Obligations.CallPushesItsOwnAddress := fun nnn =>
  ⟨decodeWord_encode (.op2NNN nnn), fun s =>
    ⟨fun h => ⟨s.called h nnn, exec_op2NNN_of_room h nnn, rfl, State.called_sp h nnn, State.called_stack_top h nnn,
      fun _ hj hne => State.called_stack_other h nnn hj hne, State.called_frame h nnn⟩,
    fun h => exec_op2NNN_of_full h nnn⟩⟩

/-- Settles O18: the entry a later return pops is the one the call pushed, the call's own `pc`. -/
theorem callThenReturnComesBack : Obligations.CallThenReturnComesBack := fun nnn s t hcall => by
  obtain ⟨hroom, rfl⟩ := exec_op2NNN_next hcall
  refine ⟨hroom, fun u husp hentry => ?_⟩
  have hsp : u.sp.val = s.sp.val + 1 := (congrArg Fin.val husp).trans (State.called_sp hroom nnn)
  have htop : u.stack[u.sp.val - 1] = s.pc := by
    simp only [hsp, Nat.add_sub_cancel]
    exact hentry.trans (State.called_stack_top hroom nnn)
  have hpos : 0 < u.sp.val := by omega
  refine ⟨u.returned hpos, exec_op00EE_of_entry hpos, ?pc, ?sp⟩
  case pc => rw [State.returned_pc, htop]
  case sp => exact Fin.ext (by rw [State.returned_sp, hsp, Nat.add_sub_cancel])

end Sys2Proof.Machine
end

section
/-! SUPPORT. Register load, arithmetic, logic, shift, random (spec/42_alu.md R140 to R154): the frames of the two shapes these
instructions have, one register written or a flag and then a register, and the values they write. -/

namespace Sys2Proof.Machine

variable {s t : State}

/-! ## Frames -/

theorem PcPlus.of_pc (h : t.pc = s.pc + 2) : PcPlus s t 2 := by
  rw [PcPlus, h]
  exact BitVec.toNat_add ..

/-- Everything but VX after an instruction that writes VX and goes on to the next one. -/
theorem setReg_advance_frame (s : State) (x : Nibble) (b : Byte) :
    OtherRegs s (s.setReg x b).advance x ∧ PcPlus s (s.setReg x b).advance 2 ∧ OnlyRegsAndPc s (s.setReg x b).advance :=
  ⟨fun _ hne => s.reg_setReg_other hne b, .of_pc rfl,
    rfl, fun _ => rfl, fun _ _ => rfl, ⟨rfl, fun _ _ => rfl⟩, ⟨rfl, rfl⟩, fun _ => rfl, rfl, rfl⟩

theorem State.reg_writeFlagged_same (s : State) (x : Nibble) (f b : Byte) : (s.writeFlagged x f b).reg x = b := by
  rw [State.reg_writeFlagged, if_pos rfl]

theorem State.reg_writeFlagged_other (s : State) {x r : Nibble} (hx : r ≠ x) (hvf : r ≠ vf) (f b : Byte) :
    (s.writeFlagged x f b).reg r = s.reg r := by
  rw [State.reg_writeFlagged, if_neg hx, if_neg hvf]

/-- Everything but VX and VF after a flag writer (R140). -/
theorem writeFlagged_frame (s : State) (x : Nibble) (f b : Byte) :
    (∀ r, r ≠ x → r ≠ vf → (s.writeFlagged x f b).reg r = s.reg r) ∧ PcPlus s (s.writeFlagged x f b) 2 ∧
      OnlyRegsAndPc s (s.writeFlagged x f b) :=
  ⟨fun _ hx hvf => s.reg_writeFlagged_other hx hvf f b, .of_pc rfl,
    rfl, fun _ => rfl, fun _ _ => rfl, ⟨rfl, fun _ _ => rfl⟩, ⟨rfl, rfl⟩, fun _ => rfl, rfl, rfl⟩

/-! ## Register load and the instructions without a flag (R141 to R146) -/

/-- Settles O19: VX is the register written. -/
theorem loadImmediateSetsVx : Obligations.LoadImmediateSetsVx := fun x nn =>
  ⟨decodeWord_encode (.op6XNN x nn), fun s => ⟨_, rfl, s.reg_setReg_same x nn, setReg_advance_frame s x nn⟩⟩

/-- Settles O20: VX is the register written, and a sum of bytes is taken modulo 256. -/
theorem addImmediateWrapsWithoutFlag : Obligations.AddImmediateWrapsWithoutFlag := fun x nn =>
  ⟨decodeWord_encode (.op7XNN x nn), fun s =>
    ⟨_, rfl, by rw [State.reg_advance, s.reg_setReg_same, BitVec.toNat_add], setReg_advance_frame s x _⟩⟩

/-- Copying a register to itself changes no register. -/
theorem sameRegs_setReg_self (s : State) (x : Nibble) : SameRegs s (s.setReg x (s.reg x)) := fun r => by
  rw [s.reg_setReg]
  split
  case isTrue h => rw [h]
  case isFalse => rfl

/-- Settles O21: VX is the register written, and with X = Y it holds that value already. -/
theorem copySetsVxToVy : Obligations.CopySetsVxToVy := fun x y =>
  ⟨decodeWord_encode (.op8XY0 x y), fun s => by
    obtain ⟨hregs, hpc, hframe⟩ := setReg_advance_frame s x (s.reg y)
    refine ⟨_, rfl, s.reg_setReg_same x _, hregs, hpc, hframe, fun hxy => ⟨?_, hframe⟩⟩
    subst hxy
    exact sameRegs_setReg_self s x⟩

/-- Settles O22: the three instructions write VX, with an operation of bit vectors that acts on each bit. -/
theorem logicIsBitwiseWithoutFlag : Obligations.LogicIsBitwiseWithoutFlag := fun x y =>
  ⟨decodeWord_encode (.op8XY1 x y), decodeWord_encode (.op8XY2 x y), decodeWord_encode (.op8XY3 x y), fun s =>
    ⟨⟨_, rfl, fun b _ => by rw [State.reg_advance, s.reg_setReg_same, BitVec.getLsbD_or], setReg_advance_frame s x _⟩,
      ⟨_, rfl, fun b _ => by rw [State.reg_advance, s.reg_setReg_same, BitVec.getLsbD_and], setReg_advance_frame s x _⟩,
      ⟨_, rfl, fun b _ => by rw [State.reg_advance, s.reg_setReg_same, BitVec.getLsbD_xor], setReg_advance_frame s x _⟩⟩⟩

/-! ## The flag writers (R140, R147 to R152) -/

theorem byte_sub_toNat (a b : Byte) : (a - b).toNat = (a.toNat + 256 - b.toNat) % 256 := by
  have := b.isLt
  rw [BitVec.toNat_sub]
  omega

theorem flagByte_toNat (c : Bool) : (flagByte c).toNat = c.toNat := by
  cases c <;> rfl

theorem shiftedOutRight_toNat (a : Byte) : (shiftedOutRight a).toNat = a.toNat % 2 := by
  rw [shiftedOutRight, flagByte_toNat, BitVec.getLsbD, Nat.toNat_testBit, pow_zero, Nat.div_one]

theorem shiftedOutLeft_toNat (a : Byte) : (shiftedOutLeft a).toNat = a.toNat / 128 := by
  have := a.isLt
  rw [shiftedOutLeft, flagByte_toNat, BitVec.getLsbD, Nat.toNat_testBit]
  omega

theorem byte_shiftRight_one_toNat (a : Byte) : (a >>> 1).toNat = a.toNat / 2 := by
  rw [BitVec.toNat_ushiftRight, Nat.shiftRight_one]

theorem byte_shiftLeft_one_toNat (a : Byte) : (a <<< 1).toNat = 2 * a.toNat % 256 := by
  rw [BitVec.toNat_shiftLeft, Nat.shiftLeft_eq, pow_one, Nat.mul_comm]

/-- Settles O23: the result written is the sum, the flag written says whether it is above 255. -/
theorem addSetsCarry : Obligations.AddSetsCarry := fun x y =>
  ⟨decodeWord_encode (.op8XY4 x y), fun s =>
    ⟨_, rfl, by rw [s.reg_writeFlagged_same, BitVec.toNat_add],
      fun hx => (s.reg_vf_writeFlagged hx _ _).trans (flagByte_decide _), writeFlagged_frame s x _ _⟩⟩

/-- Settles O24: the result written is the difference, the flag written compares minuend and subtrahend. -/
theorem subtractionsSetNoBorrow : Obligations.SubtractionsSetNoBorrow := fun x y =>
  ⟨decodeWord_encode (.op8XY5 x y), decodeWord_encode (.op8XY7 x y), fun s =>
    ⟨⟨_, rfl, by rw [s.reg_writeFlagged_same, byte_sub_toNat],
        fun hx => (s.reg_vf_writeFlagged hx _ _).trans (flagByte_decide _), writeFlagged_frame s x _ _⟩,
      ⟨_, rfl, by rw [s.reg_writeFlagged_same, byte_sub_toNat],
        fun hx => (s.reg_vf_writeFlagged hx _ _).trans (flagByte_decide _), writeFlagged_frame s x _ _⟩⟩⟩

/-- Settles O25: the result written is the shifted operand, the flag written is the bit that leaves it. -/
theorem shiftsMoveOneBitIntoVf : Obligations.ShiftsMoveOneBitIntoVf := fun x y =>
  ⟨decodeWord_encode (.op8XY6 x y), decodeWord_encode (.op8XYE x y), fun s a ha => by
    obtain rfl : a = s.shiftOperand x y := ha.trans (s.shiftOperand_eq x y).symm
    exact
      ⟨⟨_, rfl, by rw [s.reg_writeFlagged_same, byte_shiftRight_one_toNat],
          fun hx => by rw [s.reg_vf_writeFlagged hx, shiftedOutRight_toNat], writeFlagged_frame s x _ _⟩,
        ⟨_, rfl, by rw [s.reg_writeFlagged_same, byte_shiftLeft_one_toNat],
          fun hx => by rw [s.reg_vf_writeFlagged hx, shiftedOutLeft_toNat], writeFlagged_frame s x _ _⟩⟩⟩

/-! ## The random byte (R154) -/

theorem exec_opCXNN (x : Nibble) (nn : Byte) (s : State) : exec (.opCXNN x nn) s =
    .next (s.drawByte.2.setReg x (Config.freeByte s.cfg.randomSource s.draws &&& nn)).advance := rfl

/-- Settles O26: VX is the register written, and a conjunction with NN is at most NN; the frame is that of a register write
in the state after the draw, which differs from the state before in the count of draws only. -/
theorem randomIsMaskedByNn : Obligations.RandomIsMaskedByNn := fun x nn =>
  ⟨decodeWord_encode (.opCXNN x nn), fun s => by
    obtain ⟨hregs, hpc, hi, hmem, hscreen, hstack, htimers, hkeys, hcfg, hdraws⟩ := setReg_advance_frame s.drawByte.2 x
      (Config.freeByte s.cfg.randomSource s.draws &&& nn)
    refine ⟨_, exec_opCXNN x nn s, ?bits, ?bound, hdraws, hregs, hpc, hi, hmem, hscreen, hstack, htimers, hkeys, hcfg⟩
    case bits =>
      intro b _
      rw [State.reg_advance, State.reg_setReg_same, BitVec.getLsbD_and]
    case bound =>
      rw [State.reg_advance, State.reg_setReg_same, BitVec.toNat_and]
      exact Nat.and_le_right⟩

end Sys2Proof.Machine
end

section
/-! SUPPORT. Bits 15 to 12 of `I` and the parameter `I_WRAP` cannot be observed (spec/43_index_memory.md R171): a state, and
the same state with another `I` of equal low 12 bits and another `I_WRAP`, compute the same addresses, so every operation
takes the two to states that again differ in nothing else. -/

namespace Sys2Proof.Machine

variable {s t : State}

/-! ## What a register range and a program image leave alone -/

@[simp] theorem State.storeRegs_i (s : State) (n : Nat) : (s.storeRegs n).i = s.i := by
  obtain ⟨m, hm⟩ := s.storeRegs_mem_only n
  rw [hm]

@[simp] theorem State.storeRegs_cfg (s : State) (n : Nat) : (s.storeRegs n).cfg = s.cfg := by
  obtain ⟨m, hm⟩ := s.storeRegs_mem_only n
  rw [hm]

@[simp] theorem State.loadRegs_i (s : State) (n : Nat) : (s.loadRegs n).i = s.i := by
  obtain ⟨v, hv⟩ := s.loadRegs_v_only n
  rw [hv]

@[simp] theorem State.loadRegs_cfg (s : State) (n : Nat) : (s.loadRegs n).cfg = s.cfg := by
  obtain ⟨v, hv⟩ := s.loadRegs_v_only n
  rw [hv]

@[simp] theorem State.writeBytes_i (s : State) (a : Addr) (bs : List Byte) : (s.writeBytes a bs).i = s.i := by
  obtain ⟨m, hm⟩ := State.writeBytes_mem_only bs s a
  rw [hm]

/-! ## The same state with another `I` and another `I_WRAP` -/

/-- `s` with `w` in `I`, of a core built with `I_WRAP = wrap`. -/
def State.withIndex (s : State) (w : Word) (wrap : IndexWrap) : State :=
  { s with i := w, cfg := { s.cfg with indexWrap := wrap } }

@[simp] theorem State.withIndex_i (s : State) (w : Word) (wrap : IndexWrap) : (s.withIndex w wrap).i = w := rfl

theorem sameButIndexHigh_iff : SameButIndexHigh s t ↔
    ∃ w wrap, t = s.withIndex w wrap ∧ w.toNat % 4096 = s.i.toNat % 4096 := by
  constructor
  · rintro ⟨ht, hlow⟩
    exact ⟨t.i, t.cfg.indexWrap, ht, hlow⟩
  · rintro ⟨w, wrap, rfl, hlow⟩
    exact ⟨rfl, hlow⟩

section
variable {w : Word} {wrap : IndexWrap}

theorem State.writeBytes_withIndex : ∀ (bs : List Byte) (s : State) (a : Addr),
    (s.withIndex w wrap).writeBytes a bs = (s.writeBytes a bs).withIndex w wrap
  | [], _, _ => rfl
  | b :: rest, s, a => State.writeBytes_withIndex rest (s.writeByte a b) (a + 1)

/-! ## What reads `I` reads its low 12 bits (R170) -/

variable (hlow : w.toNat % 4096 = s.i.toNat % 4096)
include hlow

theorem State.ea_withIndex (k : Nat) : (s.withIndex w wrap).ea k = s.ea k := by
  refine BitVec.eq_of_toNat_eq ?_
  simp only [State.ea, State.withIndex_i, BitVec.toNat_ofNat]
  omega

theorem State.storeRegs_withIndex : ∀ n, (s.withIndex w wrap).storeRegs n = (s.storeRegs n).withIndex w wrap
  | 0 => rfl
  | n + 1 => by
    rw [State.storeRegs, State.storeRegs_withIndex n, State.ea_withIndex hlow]
    rfl

theorem State.loadRegs_withIndex : ∀ n, (s.withIndex w wrap).loadRegs n = (s.loadRegs n).withIndex w wrap
  | 0 => rfl
  | n + 1 => by
    rw [State.loadRegs, State.loadRegs_withIndex n, State.ea_withIndex hlow]
    rfl

theorem State.drawSprite_withIndex (x y n : Nibble) : (s.withIndex w wrap).drawSprite x y n = s.drawSprite x y n := by
  have hbyte : (s.withIndex w wrap).spriteByte = s.spriteByte := funext fun r => by
    rw [State.spriteByte, State.ea_withIndex hlow]
    rfl
  rw [State.drawSprite, hbyte]
  rfl

end

/-! ## What writes `I` -/

/-- Both values of `I_WRAP` keep the low 12 bits of a sum (R172). -/
theorem State.indexModulus_low (s : State) (n : Nat) : n % s.indexModulus % 2 ^ 16 % 4096 = n % 4096 := by
  unfold State.indexModulus
  split <;> omega

theorem SameButIndexHigh.advance (h : SameButIndexHigh s t) : SameButIndexHigh s.advance t.advance := by
  obtain ⟨w, wrap, rfl, hlow⟩ := sameButIndexHigh_iff.mp h
  exact ⟨rfl, hlow⟩

theorem SameButIndexHigh.advanceIndex (h : SameButIndexHigh s t) (x : Nibble) :
    SameButIndexHigh (s.advanceIndex x) (t.advanceIndex x) := by
  obtain ⟨w, wrap, rfl, hlow⟩ := sameButIndexHigh_iff.mp h
  have hcfg : (s.withIndex w wrap).cfg.loadStoreAdvance = s.cfg.loadStoreAdvance := rfl
  rw [State.advanceIndex, State.advanceIndex, hcfg]
  cases s.cfg.loadStoreAdvance with
  | unchanged => exact h
  | xPlus1 =>
    refine ⟨rfl, ?_⟩
    simp only [State.setIndex_i, State.withIndex_i, BitVec.toNat_ofNat]
    omega

/-! ## One instruction -/

/-- The two outcomes are the same, but for bits 15 to 12 of `I` and `I_WRAP` in the next state. -/
inductive OutcomesAgree : Host.Outcome State Fault Refusal → Host.Outcome State Fault Refusal → Prop
  | next {s t : State} (h : SameButIndexHigh s t) : OutcomesAgree (.next s) (.next t)
  | fault (e : Fault) : OutcomesAgree (.fault e) (.fault e)

theorem exec_agrees (i : Instr) (h : SameButIndexHigh s t) : OutcomesAgree (exec i s) (exec i t) := by
  obtain ⟨w, wrap, rfl, hlow⟩ := sameButIndexHigh_iff.mp h
  cases i
  case op00EE =>
    rcases Nat.eq_zero_or_pos s.sp.val with hempty | hentry
    · rw [exec_op00EE_of_empty hempty, exec_op00EE_of_empty (s := s.withIndex w wrap) hempty]
      exact .fault _
    · rw [exec_op00EE_of_entry hentry, exec_op00EE_of_entry (s := s.withIndex w wrap) hentry]
      exact .next ⟨rfl, hlow⟩
  case op2NNN nnn =>
    rcases Nat.lt_or_eq_of_le (Nat.le_of_lt_succ s.sp.isLt) with hroom | hfull
    · rw [exec_op2NNN_of_room hroom, exec_op2NNN_of_room (s := s.withIndex w wrap) hroom]
      exact .next ⟨rfl, hlow⟩
    · rw [exec_op2NNN_of_full hfull, exec_op2NNN_of_full (s := s.withIndex w wrap) hfull]
      exact .fault _
  case opFX0A x =>
    have hselect : (s.withIndex w wrap).selectKey = s.selectKey := rfl
    rw [exec, execFX0A, exec, execFX0A, hselect]
    cases s.selectKey with
    | none => exact .next h
    | some k => exact .next ⟨rfl, hlow⟩
  case opDXYN x y n =>
    rw [exec_opDXYN, exec_opDXYN, State.drawn, State.drawn, State.drawSprite_withIndex hlow]
    exact .next ⟨rfl, hlow⟩
  case opFX1E x =>
    refine .next ⟨rfl, ?_⟩
    simp only [State.advance_i, State.setIndex_i, BitVec.toNat_ofNat, State.indexModulus_low, State.withIndex_i]
    exact Nat.ModEq.add_right _ hlow
  case opFX33 x =>
    rw [exec, exec, execFX33, execFX33]
    simp only [State.ea_withIndex hlow]
    exact .next ⟨rfl, hlow⟩
  case opFX55 x =>
    rw [exec, exec, execFX55, execFX55, State.storeRegs_withIndex hlow]
    refine .next (SameButIndexHigh.advanceIndex ⟨rfl, ?_⟩ x).advance
    rwa [State.storeRegs_i]
  case opFX65 x =>
    rw [exec, exec, execFX65, execFX65, State.loadRegs_withIndex hlow]
    refine .next (SameButIndexHigh.advanceIndex ⟨rfl, ?_⟩ x).advance
    rwa [State.loadRegs_i]
  case opANNN nnn | opFX29 x => exact .next ⟨rfl, rfl⟩
  all_goals exact .next ⟨rfl, hlow⟩

/-! ## One operation and a run -/

theorem SameButIndexHigh.fetchWord_eq (h : SameButIndexHigh s t) : t.fetchWord = s.fetchWord := by
  obtain ⟨w, wrap, rfl, -⟩ := sameButIndexHigh_iff.mp h
  rfl

theorem SameButIndexHigh.stepOutcome_eq (h : SameButIndexHigh s t) : stepOutcome t = stepOutcome s := by
  obtain ⟨w, wrap, rfl, -⟩ := sameButIndexHigh_iff.mp h
  rfl

theorem step_agrees (h : SameButIndexHigh s t) : OutcomesAgree (step s) (step t) := by
  rw [step, step, h.fetchWord_eq]
  cases decodeWord s.fetchWord with
  | ok i => exact exec_agrees i h
  | error e => exact .fault _

theorem loadImage_agrees (bytes : List Byte) (h : SameButIndexHigh s t) :
    OutcomesAgree (loadImage bytes s) (loadImage bytes t) := by
  obtain ⟨w, wrap, rfl, hlow⟩ := sameButIndexHigh_iff.mp h
  rw [loadImage, loadImage, State.writeBytes_withIndex]
  split
  · refine .next ⟨rfl, ?_⟩
    rwa [State.writeBytes_i]
  · exact .fault _

/-- The two pairs of state and response differ in bits 15 to 12 of `I` and in `I_WRAP` only. -/
def AnswersAgree (p q : State × Response) : Prop := SameButIndexHigh p.1 q.1 ∧ q.2 = p.2

theorem OutcomesAgree.settle {o o' : Host.Outcome State Fault Refusal} (ho : OutcomesAgree o o')
    (h : SameButIndexHigh s t) (ok : Response) : AnswersAgree (settle s ok o) (settle t ok o') := by
  cases ho with
  | next hnext => exact ⟨hnext, rfl⟩
  | fault e => exact ⟨h, rfl⟩

theorem operate_agrees (op : Operation) (h : SameButIndexHigh s t) : AnswersAgree (operate op s) (operate op t) := by
  cases op with
  | load bytes => exact (loadImage_agrees bytes h).settle h .done
  | step =>
    rw [operate, operate, h.stepOutcome_eq]
    exact (step_agrees h).settle h _
  | tickTimers | readFramebuffer | shouldBeep | setKey k p =>
    obtain ⟨w, wrap, rfl, hlow⟩ := sameButIndexHigh_iff.mp h
    exact ⟨⟨rfl, hlow⟩, rfl⟩
  | reset =>
    obtain ⟨w, wrap, rfl, -⟩ := sameButIndexHigh_iff.mp h
    exact ⟨⟨rfl, rfl⟩, rfl⟩

/-- Settles O35, by induction on the operations: each answers the two states alike and keeps them related. -/
theorem highIndexBitsAreUnobservable : Obligations.HighIndexBitsAreUnobservable := by
  intro ops
  induction ops with
  | nil => exact fun s t h => ⟨rfl, h⟩
  | cons op rest ih =>
    intro s t h
    obtain ⟨hstate, hresponse⟩ := operate_agrees op h
    obtain ⟨hresponses, hrun⟩ := ih _ _ hstate
    exact ⟨by rw [responses, responses, hresponse, hresponses], hrun⟩

end Sys2Proof.Machine
end

section
/-! SUPPORT. Index register and memory transfer (spec/43_index_memory.md R170 to R177): the frames of what writes `I`, of
what writes memory and of what loads registers, and the values they write. -/

namespace Sys2Proof.Machine

variable {s t : State}

/-! ## The index register (R172 to R174) -/

/-- Everything but `I` after an instruction that writes `I` and goes on to the next one. -/
theorem setIndex_advance_frame (s : State) (w : Word) :
    SameRegs s (s.setIndex w).advance ∧ PcPlus s (s.setIndex w).advance 2 ∧ SameMemory s (s.setIndex w).advance ∧
      SameScreen s (s.setIndex w).advance ∧ SameStack s (s.setIndex w).advance ∧ SameTimers s (s.setIndex w).advance ∧
      SameKeys s (s.setIndex w).advance ∧ SameModelFields s (s.setIndex w).advance :=
  ⟨fun _ => rfl, .of_pc rfl, fun _ => rfl, fun _ _ => rfl, ⟨rfl, fun _ _ => rfl⟩, ⟨rfl, rfl⟩, fun _ => rfl, rfl, rfl⟩

/-- Settles O28: a 12-bit address fits in `I`. -/
theorem loadIndexSetsI : Obligations.LoadIndexSetsI := fun nnn =>
  ⟨decodeWord_encode (.opANNN nnn), fun s =>
    ⟨_, rfl, BitVec.toNat_setWidth_of_le (by decide), setIndex_advance_frame s _⟩⟩

theorem State.indexModulus_of_mod65536 (h : s.cfg.indexWrap = .mod65536) : s.indexModulus = 65536 := by
  rw [State.indexModulus, h]

theorem State.indexModulus_of_mod4096 (h : s.cfg.indexWrap = .mod4096) : s.indexModulus = 4096 := by
  rw [State.indexModulus, h]

/-- Settles O29: a sum reduced by either modulus fits in `I`. -/
theorem addIndexWrapsWithoutFlag : Obligations.AddIndexWrapsWithoutFlag := fun x =>
  ⟨decodeWord_encode (.opFX1E x), fun s => by
    refine ⟨_, rfl, fun hwrap => ?wide, fun hwrap => ?narrow, setIndex_advance_frame s _⟩
    case wide =>
      rw [State.advance_i, State.setIndex_i, BitVec.toNat_ofNat, State.indexModulus_of_mod65536 hwrap, Nat.mod_mod]
    case narrow =>
      rw [State.advance_i, State.setIndex_i, BitVec.toNat_ofNat, State.indexModulus_of_mod4096 hwrap]
      omega⟩

/-- Settles O30: the address of the glyph of the greatest byte, 0x54B, fits in `I`. -/
theorem glyphAddressIsFiveTimesVx : Obligations.GlyphAddressIsFiveTimesVx := fun x =>
  ⟨decodeWord_encode (.opFX29 x), fun s => by
    refine ⟨_, rfl, ?index, setIndex_advance_frame s _⟩
    have := (s.reg x).isLt
    rw [State.advance_i, State.setIndex_i, BitVec.toNat_ofNat]
    omega⟩

/-! ## Effective addresses and the advance of `I` (R170, R175, R176) -/

theorem State.ea_toNat (s : State) (k : Nat) : (s.ea k).toNat = (s.i.toNat + k) % 4096 := BitVec.toNat_ofNat ..

theorem State.advanceIndex_i_toNat (s : State) (x : Nibble) : (s.advanceIndex x).i.toNat =
    if s.cfg.loadStoreAdvance = .xPlus1 then (s.i.toNat + x.toNat + 1) % 65536 else s.i.toNat := by
  rw [State.advanceIndex]
  cases s.cfg.loadStoreAdvance with
  | unchanged => rfl
  | xPlus1 => exact BitVec.toNat_ofNat ..

theorem State.readByte_advanceIndex (s : State) (x : Nibble) (a : Addr) :
    (s.advanceIndex x).readByte a = s.readByte a := by
  obtain ⟨w, hw⟩ := s.advanceIndex_i_only x
  rw [hw]
  rfl

/-! ## Stores (R175, R177) -/

/-- Frame of an instruction that writes memory, `I` and `pc` only, and goes on to the next one. -/
theorem memory_index_advance_frame (s : State) (m : Memory) (w : Word) :
    let t := { s with mem := m, i := w }.advance
    SameRegs s t ∧ PcPlus s t 2 ∧ SameScreen s t ∧ SameStack s t ∧ SameTimers s t ∧ SameKeys s t ∧ SameModelFields s t :=
  ⟨fun _ => rfl, .of_pc rfl, fun _ _ => rfl, ⟨rfl, fun _ _ => rfl⟩, ⟨rfl, rfl⟩, fun _ => rfl, rfl, rfl⟩

/-- Three bytes stored one after another at effective addresses are all read back, since the addresses are distinct. -/
theorem State.Inv.readByte_three (hs : s.Inv) (a b c : Byte) :
    let t := ((s.writeByte (s.ea 0) a).writeByte (s.ea 1) b).writeByte (s.ea 2) c
    t.readByte (s.ea 0) = a ∧ t.readByte (s.ea 1) = b ∧ t.readByte (s.ea 2) = c := by
  have hne {j k : Nat} (hjk : j < k) (hk : k < 4096) : s.ea j ≠ s.ea k :=
    fun e => Nat.ne_of_lt hjk (s.ea_injective (hjk.trans hk) hk e)
  obtain ⟨hmem, -⟩ := hs
  have hmem₁ := s.writeByte_wf hmem (s.ea 0) a
  have hmem₂ := State.writeByte_wf _ hmem₁ (s.ea 1) b
  refine ⟨?zero, ?one, ?two⟩
  case zero =>
    rw [State.readByte_writeByte_other _ (hne (by decide) (by decide)),
      State.readByte_writeByte_other _ (hne (by decide) (by decide)), s.readByte_writeByte_same hmem]
  case one =>
    rw [State.readByte_writeByte_other _ (hne (by decide) (by decide)),
      State.readByte_writeByte_same _ hmem₁]
  case two => exact State.readByte_writeByte_same _ hmem₂ _ _

/-- Settles O31: the three digits are read back, and a store leaves every other address alone. -/
theorem decimalDigitsAreStored : Obligations.DecimalDigitsAreStored := fun x =>
  ⟨decodeWord_encode (.opFX33 x), fun s => by
    refine ⟨_, rfl, fun hs => ?digits, s.ea_toNat, fun a h0 h1 h2 => ?others, rfl, memory_index_advance_frame s _ s.i⟩
    case digits =>
      obtain ⟨hhundreds, htens, hones⟩ := hs.readByte_three (s.reg x / 100#8) (s.reg x / 10#8 % 10#8) (s.reg x % 10#8)
      simp only [State.readByte_advance, hhundreds, htens, hones, BitVec.toNat_udiv, BitVec.toNat_umod]
      exact ⟨rfl, rfl, rfl⟩
    case others =>
      rw [State.readByte_advance, State.readByte_writeByte_other _ h2, State.readByte_writeByte_other _ h1,
        s.readByte_writeByte_other h0]⟩

/-- The state after FX55. -/
def State.stored (s : State) (x : Nibble) : State := ((s.storeRegs (x.toNat + 1)).advanceIndex x).advance

theorem exec_opFX55 (x : Nibble) (s : State) : exec (.opFX55 x) s = .next (s.stored x) := rfl

theorem State.stored_memory_index (s : State) (x : Nibble) : ∃ m w, s.stored x = { s with mem := m, i := w }.advance := by
  obtain ⟨m, hm⟩ := s.storeRegs_mem_only (x.toNat + 1)
  obtain ⟨w, hw⟩ := (s.storeRegs (x.toNat + 1)).advanceIndex_i_only x
  exact ⟨m, w, by rw [State.stored, hw, hm]⟩

theorem State.stored_i_toNat (s : State) (x : Nibble) : (s.stored x).i.toNat =
    if s.cfg.loadStoreAdvance = .xPlus1 then (s.i.toNat + x.toNat + 1) % 65536 else s.i.toNat := by
  rw [State.stored, State.advance_i, State.advanceIndex_i_toNat, State.storeRegs_cfg, State.storeRegs_i]

theorem State.readByte_stored_other {x : Nibble} {a : Addr} (ha : ∀ k ≤ x.toNat, a ≠ s.ea k) :
    (s.stored x).readByte a = s.readByte a := by
  rw [State.stored, State.readByte_advance, State.readByte_advanceIndex,
    s.storeRegs_readByte_other fun k hk => ha k (Nat.le_of_lt_succ hk)]

theorem State.Inv.readByte_stored (hs : s.Inv) {x : Nibble} {k : Nat} (hk : k ≤ x.toNat) :
    (s.stored x).readByte (s.ea k) = s.reg (BitVec.ofNat 4 k) := by
  obtain ⟨hmem, -⟩ := hs
  have := x.isLt
  rw [State.stored, State.readByte_advance, State.readByte_advanceIndex,
    s.storeRegs_readByte hmem (by omega) (Nat.lt_succ_of_le hk)]

/-- Settles O32, from the law of a register range stored and the advance of `I`. -/
theorem storeRegistersWritesTheirBytes : Obligations.StoreRegistersWritesTheirBytes := fun x =>
  ⟨decodeWord_encode (.opFX55 x), fun s => by
    refine ⟨s.stored x, exec_opFX55 x s, fun hs _ hk => hs.readByte_stored hk, fun _ ha => State.readByte_stored_other ha,
      s.stored_i_toNat x, ?_⟩
    obtain ⟨m, w, hstored⟩ := s.stored_memory_index x
    rw [hstored]
    exact memory_index_advance_frame s m w⟩

/-! ## Loads (R176) -/

/-- The state after FX65. -/
def State.loaded (s : State) (x : Nibble) : State := ((s.loadRegs (x.toNat + 1)).advanceIndex x).advance

theorem exec_opFX65 (x : Nibble) (s : State) : exec (.opFX65 x) s = .next (s.loaded x) := rfl

theorem State.loaded_regs_index (s : State) (x : Nibble) : ∃ v w, s.loaded x = { s with v := v, i := w }.advance := by
  obtain ⟨v, hv⟩ := s.loadRegs_v_only (x.toNat + 1)
  obtain ⟨w, hw⟩ := (s.loadRegs (x.toNat + 1)).advanceIndex_i_only x
  exact ⟨v, w, by rw [State.loaded, hw, hv]⟩

theorem State.loaded_i_toNat (s : State) (x : Nibble) : (s.loaded x).i.toNat =
    if s.cfg.loadStoreAdvance = .xPlus1 then (s.i.toNat + x.toNat + 1) % 65536 else s.i.toNat := by
  rw [State.loaded, State.advance_i, State.advanceIndex_i_toNat, State.loadRegs_cfg, State.loadRegs_i]

theorem State.reg_loaded (s : State) (x r : Nibble) :
    (s.loaded x).reg r = if r.toNat ≤ x.toNat then s.readByte (s.ea r.toNat) else s.reg r := by
  have := x.isLt
  rw [State.loaded, State.reg_advance, State.reg_advanceIndex, s.loadRegs_reg r (by omega)]
  simp only [Nat.lt_succ_iff]

/-- Settles O33, from the law of a register range loaded and the advance of `I`. -/
theorem loadRegistersReadsTheirBytes : Obligations.LoadRegistersReadsTheirBytes := fun x =>
  ⟨decodeWord_encode (.opFX65 x), fun s => by
    refine ⟨s.loaded x, exec_opFX65 x s, s.reg_loaded x, s.loaded_i_toNat x, ?_⟩
    obtain ⟨v, w, hloaded⟩ := s.loaded_regs_index x
    rw [hloaded]
    exact ⟨fun _ => rfl, .of_pc rfl, fun _ _ => rfl, ⟨rfl, fun _ _ => rfl⟩, ⟨rfl, rfl⟩, fun _ => rfl, rfl, rfl⟩⟩

/-- Settles O34: the load reads at the addresses of the store, and finds there the registers it stored. -/
theorem loadAfterStoreRestoresRegisters : Obligations.LoadAfterStoreRestoresRegisters := by
  intro x s t u hs hstore hmem hcfg hi
  refine ⟨u.loaded x, exec_opFX65 x u, fun r hr => ?_⟩
  cases hstore
  have hea : u.ea r.toNat = s.ea r.toNat := by rw [State.ea, hi, State.ea]
  calc (u.loaded x).reg r
    _ = u.readByte (s.ea r.toNat) := by rw [u.reg_loaded, if_pos hr, hea]
    _ = (s.stored x).readByte (s.ea r.toNat) := SameMemory.of_mem_cfg hmem hcfg _
    _ = s.reg r := by rw [hs.readByte_stored hr, BitVec.ofNat_toNat, BitVec.setWidth_eq]

end Sys2Proof.Machine
end

section
/-! SUPPORT. Clearing and drawing (spec/44_display.md R191 to R193): the frames of the two instructions that write the
framebuffer, what a second draw at the same place does, and that nothing else writes a cell. -/

namespace Sys2Proof.Machine

variable {s t : State}

/-! ## Clear (R191) -/

/-- Everything but the cells after 00E0. -/
theorem State.cleared_frame (s : State) :
    SameRegs s s.cleared ∧ s.cleared.i = s.i ∧ PcPlus s s.cleared 2 ∧ SameMemory s s.cleared ∧ SameStack s s.cleared ∧
      SameTimers s s.cleared ∧ SameKeys s s.cleared ∧ SameModelFields s s.cleared :=
  ⟨fun _ => rfl, rfl, .of_pc rfl, fun _ => rfl, ⟨rfl, fun _ _ => rfl⟩, ⟨rfl, rfl⟩, fun _ => rfl, rfl, rfl⟩

/-- Settles O36: the state after 00E0 has a blank screen and is otherwise the one before, at the next instruction. -/
theorem clearZeroesEveryCell : Obligations.ClearZeroesEveryCell :=
  ⟨decodeWord_encode .op00E0, fun s => ⟨s.cleared, exec_op00E0 s, s.pixel_cleared, s.cleared_frame⟩⟩

/-! ## Draw (R190, R192) -/

section
variable {x y n : Nibble}

theorem State.reg_vf_drawn_eq_one_iff : (s.drawn x y n).reg vf = 1 ↔ (s.drawSprite x y n).hit = true := by
  rw [State.reg_vf_drawn, flagByte_eq_one_iff]

theorem State.reg_drawn_other (s : State) {r : Nibble} (hr : r ≠ vf) : (s.drawn x y n).reg r = s.reg r := by
  rw [State.drawn, State.reg_advance, State.reg_setReg_other _ hr]
  rfl

/-- Everything but the cells and VF after DXYN. -/
theorem State.drawn_frame (s : State) (x y n : Nibble) :
    OtherRegs s (s.drawn x y n) vf ∧ (s.drawn x y n).i = s.i ∧ PcPlus s (s.drawn x y n) 2 ∧
      SameMemory s (s.drawn x y n) ∧ SameStack s (s.drawn x y n) ∧ SameTimers s (s.drawn x y n) ∧
      SameKeys s (s.drawn x y n) ∧ SameModelFields s (s.drawn x y n) :=
  ⟨fun _ hr => s.reg_drawn_other hr, rfl, .of_pc rfl, fun _ => rfl, ⟨rfl, fun _ _ => rfl⟩, ⟨rfl, rfl⟩, fun _ => rfl, rfl,
    rfl⟩

end

/-- Settles O37: the cells are flipped by the sprite's bits, and VF is the collision, which is a cell erased. -/
theorem drawFlipsTheSpritesCells : Obligations.DrawFlipsTheSpritesCells := fun x y n =>
  ⟨decodeWord_encode (.opDXYN x y n), fun s => by
    refine ⟨s.drawn x y n, exec_opDXYN x y n s, s.pixel_drawn x y n, ?flag, ?collision, s.drawn_frame x y n⟩
    case flag =>
      rw [s.reg_vf_drawn]
      exact flagByte_eq_zero_or_one _
    case collision => exact State.reg_vf_drawn_eq_one_iff.trans (drawSprite_hit_iff_cell_erased x y n)⟩

/-! ## Drawing twice (R192(f)) -/

section
variable {x y n : Nibble} (hx : (t.reg x).toNat % 64 = (s.reg x).toNat % 64)
  (hy : (t.reg y).toNat % 32 = (s.reg y).toNat % 32)
include hx hy

/-- The cells a sprite covers depend on its position and its bytes only. -/
theorem spriteCovers_congr (hbyte : ∀ r, t.spriteByte r = s.spriteByte r) (cx : Column) (cy : RowNumber) :
    SpriteCovers t x y n cx cy = SpriteCovers s x y n cx cy := by
  have hread : ∀ r, t.readByte (t.ea r) = s.readByte (s.ea r) := hbyte
  simp only [SpriteCovers, hx, hy, hread]

/-- A draw changes neither memory nor `I`, so a second draw at the same position covers the same cells. -/
theorem spriteCovers_of_drawn (ht : t = s.drawn x y n) (cx : Column) (cy : RowNumber) :
    SpriteCovers t x y n cx cy = SpriteCovers s x y n cx cy :=
  spriteCovers_congr hx hy (fun _ => by rw [ht]; rfl) cx cy

/-- Each covered cell is flipped twice. -/
theorem sameScreen_drawn_twice (ht : t = s.drawn x y n) : SameScreen s (t.drawn x y n) := fun cx cy => by
  rw [t.pixel_drawn, spriteCovers_of_drawn hx hy ht, ht, s.pixel_drawn, Bool.xor_assoc, Bool.xor_self, Bool.xor_false]

/-- The second draw meets a lit cell exactly where the first lit one. -/
theorem drawSprite_hit_again_iff (ht : t = s.drawn x y n) : (t.drawSprite x y n).hit = true ↔
    ∃ cx cy, SpriteCovers s x y n cx cy = true ∧ s.pixel cx cy = false := by
  rw [drawSprite_hit_iff]
  refine exists_congr fun cx => exists_congr fun cy => ?_
  rw [spriteCovers_of_drawn hx hy ht]
  refine and_congr_right fun hcovers => ?_
  rw [ht, s.pixel_drawn, hcovers, Bool.xor_true, Bool.not_eq_true']

end

/-- Settles O38: the second draw covers the cells of the first, so it undoes it and collides where the first lit a cell. -/
theorem drawingTwiceRestoresTheScreen : Obligations.DrawingTwiceRestoresTheScreen := by
  intro x y n s t u hfirst hsecond hx hy
  have ht : t = s.drawn x y n := by cases hfirst; rfl
  obtain rfl : t.drawn x y n = u := by cases hsecond; rfl
  exact ⟨sameScreen_drawn_twice hx hy ht, State.reg_vf_drawn_eq_one_iff.trans (drawSprite_hit_again_iff hx hy ht)⟩

/-! ## Who writes a cell (R193) -/

theorem SameScreen.of_fb (h : t.fb = s.fb) : SameScreen s t := fun cx cy => by
  rw [State.pixel, h, State.pixel]

theorem exec_fb_of_not_display {i : Instr} (hexec : exec i s = .next t) (hclear : i ≠ .op00E0)
    (hdraw : ∀ x y n, i ≠ .opDXYN x y n) : t.fb = s.fb := by
  obtain ⟨-, -, -, -, -, -, -, -, hfb, -⟩ := exec_writes hexec
  rcases hfb with hfb | hop | ⟨x, y, n, hop⟩
  · exact hfb
  · exact absurd hop hclear
  · exact absurd hop (hdraw x y n)

theorem operate_fb {op : Operation} (hstep : op ≠ .step) (hreset : op ≠ .reset) (s : State) :
    (operate op s).1.fb = s.fb := by
  cases op with
  | step => exact absurd rfl hstep
  | reset => exact absurd rfl hreset
  | load bytes => exact operate_load_fb bytes s
  | tickTimers | readFramebuffer | shouldBeep | setKey k p => rfl

/-- Settles O39: an instruction writes the framebuffer only if it is 00E0 or DXYN, an operation only if it is one of the
two. -/
theorem framebufferHasTwoWriters : Obligations.FramebufferHasTwoWriters :=
  ⟨fun _ _ _ hexec hclear hdraw => .of_fb (exec_fb_of_not_display hexec hclear hdraw),
    fun _ s hstep hreset => .of_fb (operate_fb hstep hreset s)⟩

end Sys2Proof.Machine
end

section
/-! SUPPORT. Keypad and timer instructions (spec/45_keypad_timers.md R210 to R216): which key the two skips test, which key
FX0A reports, and the frame of what writes a timer. -/

namespace Sys2Proof.Machine

variable {s : State}

/-! ## Key skips (R210 to R212) -/

/-- The nibble that EX9E and EXA1 test is the one that holds `V[X] mod 16`. -/
theorem State.eq_keyIndex {k x : Nibble} (hk : k.toNat = (s.reg x).toNat % 16) : k = s.keyIndex x := by
  rw [← BitVec.toNat_inj, hk, State.keyIndex, BitVec.toNat_ofNat]

theorem pcPlus_skipIf_not (s : State) (c : Bool) : PcPlus s (s.skipIf !c) (if c = true then 2 else 4) := by
  simpa only [Bool.not_eq_true', ← Bool.not_eq_true, ite_not] using pcPlus_skipIf s !c

/-- Settles O41: both are a skip on the key of `keyIndex`, on its flag and on the opposite. -/
theorem keySkipsTestTheKeyOfVx : Obligations.KeySkipsTestTheKeyOfVx := fun x =>
  ⟨decodeWord_encode (.opEX9E x), decodeWord_encode (.opEXA1 x), fun s k hk => by
    obtain rfl : k = s.keyIndex x := State.eq_keyIndex hk
    exact ⟨⟨_, rfl, pcPlus_skipIf s _, onlyPc_skipIf s _⟩, ⟨_, rfl, pcPlus_skipIf_not s _, onlyPc_skipIf s _⟩⟩⟩

/-! ## Wait for a key (R213) -/

theorem State.exists_selectKey (h : ∃ k, s.keyDown k = true) : ∃ k, s.selectKey = some k := by
  obtain ⟨j, hj⟩ := h
  exact Option.ne_none_iff_exists'.mp fun hnone => Bool.false_ne_true ((s.selectKey_none.mp hnone j).symm.trans hj)

/-- With an empty table of exceptions `KEY_SELECT` answers the lowest key that is down (decision D9, log 6). -/
theorem State.keyDown_lt_selectKey {k j : Nibble} (hsel : s.selectKey = some k) (htable : s.cfg.keyChoices = [])
    (hj : j.toNat < k.toNat) : s.keyDown j = false := by
  rw [State.selectKey, htable, chosenKey, Option.none_or, lowestKey] at hsel
  obtain ⟨-, hlower⟩ := lowestKeyFrom_some (le_refl 16) hsel
  exact hlower j.toNat (Nat.zero_le _) hj

theorem exec_opFX0A_of_selectKey {k : Nibble} (hsel : s.selectKey = some k) (x : Nibble) :
    exec (.opFX0A x) s = .next (s.setReg x (k.setWidth 8)).advance := by
  rw [exec, execFX0A, hsel]

theorem instrOutcome_opFX0A_of_selectKey {k : Nibble} (hsel : s.selectKey = some k) (x : Nibble) :
    instrOutcome (.opFX0A x) s = .advanced := by
  rw [instrOutcome, hsel, if_neg (Option.some_ne_none k)]

/-- Settles O42: with no key down the state is the next state, and with some key down `KEY_SELECT` answers one of them, which
fits in VX. -/
theorem waitForKeyReportsAPressedKey : Obligations.WaitForKeyReportsAPressedKey := fun x => by
  refine ⟨decodeWord_encode (.opFX0A x), fun s => ⟨fun hup => ?waits, fun hdown => ?reports⟩⟩
  case waits => exact ⟨exec_opFX0A_of_no_key x hup, instrOutcome_eq_waiting_iff.mpr ⟨⟨x, rfl⟩, hup⟩⟩
  case reports =>
    obtain ⟨k, hsel⟩ := State.exists_selectKey hdown
    refine ⟨_, k, exec_opFX0A_of_selectKey hsel x, instrOutcome_opFX0A_of_selectKey hsel x, s.selectKey_some hsel,
      fun htable _ hj => State.keyDown_lt_selectKey hsel htable hj, ?key, setReg_advance_frame s x _⟩
    rw [State.reg_advance, State.reg_setReg_same, BitVec.toNat_setWidth_of_le (by decide)]

/-! ## Timers (R214 to R216) -/

/-- Settles O43: VX is the register written. -/
theorem readDelayTimer : Obligations.ReadDelayTimer := fun x =>
  ⟨decodeWord_encode (.opFX07 x), fun s => ⟨_, rfl, s.reg_setReg_same x s.dt, setReg_advance_frame s x s.dt⟩⟩

/-- Frame of an instruction that writes timers only, and goes on to the next one. -/
theorem timers_advance_frame (s : State) (delay sound : Byte) :
    let t := { s with dt := delay, st := sound }.advance
    SameRegs s t ∧ t.i = s.i ∧ PcPlus s t 2 ∧ SameMemory s t ∧ SameScreen s t ∧ SameStack s t ∧ SameKeys s t ∧
      SameModelFields s t :=
  ⟨fun _ => rfl, rfl, .of_pc rfl, fun _ => rfl, fun _ _ => rfl, ⟨rfl, fun _ _ => rfl⟩, fun _ => rfl, rfl, rfl⟩

theorem operate_shouldBeep_of_st {b : Byte} (h : s.st = b) :
    operate .shouldBeep s = (s, .beep (decide (b.toNat > 0))) := by
  rw [operate, State.shouldBeep, h]

/-- Settles O44: each writes its own timer, and `ShouldBeep` answers from the sound timer written. -/
theorem setTimersFromVx : Obligations.SetTimersFromVx := fun x => by
  refine ⟨decodeWord_encode (.opFX15 x), decodeWord_encode (.opFX18 x), fun s => ⟨?delay, ?sound⟩⟩
  case delay => exact ⟨_, rfl, rfl, rfl, timers_advance_frame s (s.reg x) s.st⟩
  case sound =>
    obtain ⟨hregs, hi, hpc, hmem, hscreen, hstack, hkeys, hmodel⟩ := timers_advance_frame s s.dt (s.reg x)
    exact ⟨_, rfl, rfl, rfl, hregs, hi, hpc, hmem, hscreen, hstack, hkeys, hmodel, operate_shouldBeep_of_st rfl⟩

end Sys2Proof.Machine
end

section
/-! SUPPORT. The host's operations (spec/46_host_operations.md R231 to R237): each keeps the invariant, `SetKey` writes one
key flag, and the two read-outs write nothing. -/

namespace Sys2Proof.Machine

variable {s : State}

/-! ## The invariant along every execution (R231, R232, log 12) -/

theorem State.Inv.writeBytes (h : s.Inv) (bytes : List Byte) (a : Addr) : (s.writeBytes a bytes).Inv := by
  obtain ⟨hmem, hcfg⟩ := h
  exact ⟨State.writeBytes_wf bytes s a hmem, (s.writeBytes_cfg a bytes).symm ▸ hcfg⟩

theorem State.Inv.resetAgain (h : s.Inv) : s.resetAgain.Inv := by
  obtain ⟨-, hcfg⟩ := h
  exact State.powerOn_inv hcfg s.draws

/-- `Load` and `Step` write memory byte by byte, `Reset` goes back to the power-on memory of the same core, and no other
operation writes memory. -/
theorem operate_keeps_inv (op : Operation) (h : s.Inv) : (operate op s).1.Inv := by
  rcases operate_cases op s with
    hsame | ⟨bytes, -, -, hload⟩ | ⟨-, hstep⟩ | ⟨-, htick⟩ | ⟨k, p, -, hkey⟩ | ⟨-, hreset⟩
  · rwa [hsame]
  · rw [hload]
    exact h.writeBytes bytes 0x200
  · exact stepKeepsTheInvariant s _ h hstep
  · rw [htick]
    exact h.of_mem_cfg s.tickTimers_mem s.tickTimers_cfg
  · rw [hkey]
    exact h.of_mem_cfg (s.setKey_mem k p) (s.setKey_cfg k p)
  · rw [hreset]
    exact h.resetAgain

theorem Reachable.inv (h : Reachable s) : s.Inv := by
  obtain ⟨cfg, draws, ops, hcfg, rfl⟩ := h
  exact runOps_induction (fun op _ ht => operate_keeps_inv op ht) ops _ (State.powerOn_inv hcfg draws)

/-- Settles O51: the power-on state has the invariant and every operation keeps it, so by induction every run does. -/
theorem reachableStatesHaveTheInvariant : Obligations.ReachableStatesHaveTheInvariant :=
  ⟨fun op _ h => operate_keeps_inv op h, fun _ h => h.inv⟩

/-! ## `SetKey` (R235) -/

theorem State.keyDown_setKey_same (s : State) (k : Nibble) (p : Bool) : (s.setKey k p).keyDown k = p := by
  rw [State.keyDown_setKey, if_pos rfl]

theorem State.keyDown_setKey_other (s : State) {k j : Nibble} (hj : j ≠ k) (p : Bool) :
    (s.setKey k p).keyDown j = s.keyDown j := by
  rw [State.keyDown_setKey, if_neg hj]

/-- Setting a key changes nothing but the key flags. -/
theorem State.setKey_frame (s : State) (k : Nibble) (p : Bool) :
    SameRegs s (s.setKey k p) ∧ (s.setKey k p).i = s.i ∧ (s.setKey k p).pc = s.pc ∧ SameMemory s (s.setKey k p) ∧
      SameScreen s (s.setKey k p) ∧ SameStack s (s.setKey k p) ∧ SameTimers s (s.setKey k p) ∧
      SameModelFields s (s.setKey k p) :=
  ⟨s.reg_setKey k p, s.setKey_i k p, s.setKey_pc k p, s.readByte_setKey k p, s.pixel_setKey k p,
    ⟨s.setKey_sp k p, fun _ _ => rfl⟩, ⟨s.setKey_dt k p, s.setKey_st k p⟩, s.setKey_cfg k p, s.setKey_draws k p⟩

/-- Settles O55: the flag of the key itself, the flags of the others, and the frame. -/
theorem setKeySetsOneFlag : Obligations.SetKeySetsOneFlag := fun k p s =>
  ⟨s.setKey k p, rfl, s.keyDown_setKey_same k p, fun _ hj => s.keyDown_setKey_other hj p, s.setKey_frame k p⟩

/-! ## The read-outs (R236, R237) -/

/-- Settles O56: `ReadFramebuffer` answers the framebuffer itself, whose cells are the pixels, and `ShouldBeep` answers from
the sound timer. -/
theorem readOutsChangeNothing : Obligations.ReadOutsChangeNothing := fun s =>
  ⟨⟨s.fb, rfl, fun _ _ => rfl⟩, operate_shouldBeep_of_st rfl⟩

end Sys2Proof.Machine
end

section
/-! SUPPORT. Errors (spec/60_exceptions.md R250 to R260): exactly when a step raises which, that an operation which raises
changes nothing, and that no operation but `Load` and `Reset` cures an error of `Step`. -/

namespace Sys2Proof.Machine

variable {s t : State} {e : Fault}

/-! ## When a step raises (R251 to R253) -/

/-- The only instructions that can fail to answer a next state are the call and the return. -/
theorem exec_next_of_not_stack {i : Instr} (hcall : ∀ nnn, i ≠ .op2NNN nnn) (hret : i ≠ .op00EE) (s : State) :
    ∃ t, exec i s = .next t := by
  cases i
  case op2NNN nnn => exact absurd rfl (hcall nnn)
  case op00EE => exact absurd rfl hret
  case opFX0A x =>
    rw [exec, execFX0A]
    cases s.selectKey <;> exact ⟨_, rfl⟩
  all_goals exact ⟨_, rfl⟩

/-- A call with room answers, a call with a full stack raises; a return with an entry answers, one without raises. -/
theorem exec_cases (i : Instr) (s : State) :
    (∃ t, exec i s = .next t) ∨
      ((∃ nnn, i = .op2NNN nnn) ∧ s.sp.val = 16 ∧ exec i s = .fault .callStackOverflow) ∨
      (i = .op00EE ∧ s.sp.val = 0 ∧ exec i s = .fault .returnStackUnderflow) := by
  by_cases hcall : ∃ nnn, i = .op2NNN nnn
  · obtain ⟨nnn, rfl⟩ := hcall
    rcases Nat.lt_or_ge s.sp.val 16 with hroom | hge
    · exact .inl ⟨_, exec_op2NNN_of_room hroom nnn⟩
    · have hfull : s.sp.val = 16 := by omega
      exact .inr (.inl ⟨⟨nnn, rfl⟩, hfull, exec_op2NNN_of_full hfull nnn⟩)
  by_cases hret : i = .op00EE
  · subst hret
    rcases Nat.eq_zero_or_pos s.sp.val with hempty | hentry
    · exact .inr (.inr ⟨rfl, hempty, exec_op00EE_of_empty hempty⟩)
    · exact .inl ⟨_, exec_op00EE_of_entry hentry⟩
  · exact .inl (exec_next_of_not_stack (not_exists.mp hcall) hret s)

theorem step_of_not_decoded (h : ∀ i, decodeWord s.fetchWord ≠ .ok i) : step s = .fault .unknownInstruction := by
  rw [step]
  split
  · exact absurd ‹_› (h _)
  · rfl

/-- The answers of a step, said once: a next state, or one of the three errors of `Step`, each with its cause. -/
theorem step_cases (s : State) :
    (∃ t, step s = .next t) ∨
      ((∀ i, decodeWord s.fetchWord ≠ .ok i) ∧ step s = .fault .unknownInstruction) ∨
      ((∃ nnn, decodeWord s.fetchWord = .ok (.op2NNN nnn)) ∧ s.sp.val = 16 ∧ step s = .fault .callStackOverflow) ∨
      (decodeWord s.fetchWord = .ok .op00EE ∧ s.sp.val = 0 ∧ step s = .fault .returnStackUnderflow) := by
  by_cases hdecode : ∃ i, decodeWord s.fetchWord = .ok i
  · obtain ⟨i, hd⟩ := hdecode
    rw [step_of_decode hd]
    rcases exec_cases i s with hnext | ⟨⟨nnn, rfl⟩, hraise⟩ | ⟨rfl, hraise⟩
    · exact .inl hnext
    · exact .inr (.inr (.inl ⟨⟨nnn, hd⟩, hraise⟩))
    · exact .inr (.inr (.inr ⟨hd, hraise⟩))
  · have hunknown := not_exists.mp hdecode
    exact .inr (.inl ⟨hunknown, step_of_not_decoded hunknown⟩)

/-- What a step raises depends on the fetched word and on `SP` only. -/
theorem step_fault_iff : step s = .fault e ↔
    ((∀ i, decodeWord s.fetchWord ≠ .ok i) ∧ e = .unknownInstruction) ∨
      ((∃ nnn, decodeWord s.fetchWord = .ok (.op2NNN nnn)) ∧ s.sp.val = 16 ∧ e = .callStackOverflow) ∨
      (decodeWord s.fetchWord = .ok .op00EE ∧ s.sp.val = 0 ∧ e = .returnStackUnderflow) := by
  constructor
  · intro hfault
    rcases step_cases s with ⟨t, h⟩ | ⟨hunknown, h⟩ | ⟨hcall, hfull, h⟩ | ⟨hret, hempty, h⟩ <;>
      cases hfault.symm.trans h
    · exact .inl ⟨hunknown, rfl⟩
    · exact .inr (.inl ⟨hcall, hfull, rfl⟩)
    · exact .inr (.inr ⟨hret, hempty, rfl⟩)
  · rintro (⟨hunknown, rfl⟩ | ⟨⟨nnn, hcall⟩, hfull, rfl⟩ | ⟨hret, hempty, rfl⟩)
    · exact step_of_not_decoded hunknown
    · exact (step_of_decode hcall).trans (exec_op2NNN_of_full hfull nnn)
    · exact (step_of_decode hret).trans (exec_op00EE_of_empty hempty)

theorem step_ne_refused (s : State) (r : Refusal) : step s ≠ .refused r := by
  rcases step_cases s with ⟨t, h⟩ | ⟨-, h⟩ | ⟨-, -, h⟩ | ⟨-, -, h⟩ <;> simp [h]

/-- Settles O8: the law of a step's errors, read off for each of the four. -/
theorem stepRaisesExactlyTheseErrors : Obligations.StepRaisesExactlyTheseErrors := fun s => by
  refine ⟨?unknown, ?overflow, ?underflow, ?romTooLarge, step_ne_refused s⟩
  all_goals simp [step_fault_iff]

/-! ## An error changes nothing (R254) -/

theorem settle_fst_of_err {r : Response} {o : Host.Outcome State Fault Refusal} (hr : r ≠ .err e)
    (h : (settle s r o).2 = .err e) : (settle s r o).1 = s := by
  cases o with
  | next t => exact absurd h hr
  | fault e' => rfl
  | refused r' => rfl

/-- Only `Load` and `Step` can raise, and both settle an error in the state they started from. -/
theorem operate_fst_of_err {op : Operation} (h : (operate op s).2 = .err e) : (operate op s).1 = s := by
  cases op with
  | load bytes => exact settle_fst_of_err Response.noConfusion h
  | step => exact settle_fst_of_err Response.noConfusion h
  | tickTimers | readFramebuffer | shouldBeep | setKey k p | reset => cases h

/-- Settles O10: the state is the one before, so the same operation meets the same state again. -/
theorem errorsChangeNothingAndRecur : Obligations.ErrorsChangeNothingAndRecur := fun op s t e h => by
  obtain rfl : t = s := by simpa [h] using operate_fst_of_err (congrArg Prod.snd h)
  exact ⟨rfl, h⟩

/-! ## An error of `Step` lasts until a `Load` or a `Reset` (R260) -/

/-- `op` is neither `Load` nor `Reset`, the two operations of the host that write memory or the stack. -/
def KeepsProgram (op : Operation) : Prop := op ≠ .reset ∧ ∀ bytes, op ≠ .load bytes

theorem step_fault_congr (h : step s = .fault e) (hword : t.fetchWord = s.fetchWord) (hsp : t.sp = s.sp) :
    step t = .fault e := by
  rw [step_fault_iff] at h ⊢
  rwa [hword, hsp]

theorem operate_step_of_fault (h : step s = .fault e) : operate .step s = (s, .err e) := by
  rw [operate, h, settle_fault]

/-- Neither timers nor keys are part of what makes a step raise, and the raising step itself changes nothing. -/
theorem operate_keeps_step_fault {op : Operation} (hop : KeepsProgram op) (h : step s = .fault e) :
    step (operate op s).1 = .fault e := by
  obtain ⟨hreset, hload⟩ := hop
  cases op with
  | load bytes => exact absurd rfl (hload bytes)
  | step => rwa [operate_step_of_fault h]
  | tickTimers | setKey k p => exact step_fault_congr h rfl rfl
  | readFramebuffer | shouldBeep => exact h
  | reset => exact absurd rfl hreset

/-- `r` is no outcome of a step and no error but `e`. -/
def NoOutcomeButError (e : Fault) (r : Response) : Prop := (∀ o, r ≠ .stepped o) ∧ ∀ e', r = .err e' → e' = e

theorem operate_noOutcomeButError {op : Operation} (hop : KeepsProgram op) (h : step s = .fault e) :
    NoOutcomeButError e (operate op s).2 := by
  obtain ⟨hreset, hload⟩ := hop
  cases op with
  | load bytes => exact absurd rfl (hload bytes)
  | step => simp [operate_step_of_fault h, NoOutcomeButError, eq_comm]
  | tickTimers | readFramebuffer | shouldBeep | setKey k p => simp [operate, NoOutcomeButError]
  | reset => exact absurd rfl hreset

theorem responses_noOutcomeButError : ∀ {ops : List Operation} {s : State}, step s = .fault e →
    (∀ op ∈ ops, KeepsProgram op) → ∀ r ∈ responses ops s, NoOutcomeButError e r
  | [], _, _, _ => List.forall_mem_nil _
  | _ :: _, _, h, hops => by
    obtain ⟨hop, hrest⟩ := List.forall_mem_cons.mp hops
    exact List.forall_mem_cons.mpr ⟨operate_noOutcomeButError hop h,
      responses_noOutcomeButError (operate_keeps_step_fault hop h) hrest⟩

/-- The first step of the sequence is met in a state that still raises. -/
theorem err_mem_responses : ∀ {ops : List Operation} {s : State}, step s = .fault e →
    (∀ op ∈ ops, KeepsProgram op) → Operation.step ∈ ops → Response.err e ∈ responses ops s
  | op :: rest, s, h, hops, hstep => by
    obtain ⟨hop, hrest⟩ := List.forall_mem_cons.mp hops
    rw [responses, List.mem_cons]
    rcases List.mem_cons.mp hstep with rfl | hstep
    · exact .inl (by rw [operate_step_of_fault h])
    · exact .inr (err_mem_responses (operate_keeps_step_fault hop h) hrest hstep)

/-- Settles O11, by induction on the operations: each answers no outcome and keeps the step raising, so the first step
among them raises. -/
theorem errorsLastUntilLoadOrReset : Obligations.ErrorsLastUntilLoadOrReset := fun _ _ hfault _ hops =>
  ⟨responses_noOutcomeButError hfault hops, fun hstep hfree =>
    Bool.false_ne_true (hfree _ (err_mem_responses hfault hops hstep))⟩

end Sys2Proof.Machine
end

section
/-! SUPPORT. `TickTimers`, the timers along a run, and `Reset` (spec/60_exceptions.md R263, R264,
spec/70_reset_and_hazards.md R291). -/

namespace Sys2Proof.Machine

variable {s : State}

/-! ## One tick (R263) -/

theorem tickByte_toNat_eq_ite (b : Byte) : (tickByte b).toNat = if b.toNat > 0 then b.toNat - 1 else 0 := by
  rw [tickByte_toNat]
  split <;> omega

/-- A tick changes nothing but the timers. -/
theorem State.tickTimers_frame (s : State) :
    SameRegs s s.tickTimers ∧ s.tickTimers.i = s.i ∧ s.tickTimers.pc = s.pc ∧ SameMemory s s.tickTimers ∧
      SameScreen s s.tickTimers ∧ SameStack s s.tickTimers ∧ SameKeys s s.tickTimers ∧ SameModelFields s s.tickTimers :=
  ⟨s.reg_tickTimers, s.tickTimers_i, s.tickTimers_pc, s.readByte_tickTimers, s.pixel_tickTimers,
    ⟨s.tickTimers_sp, fun _ _ => rfl⟩, s.keyDown_tickTimers, s.tickTimers_cfg, s.tickTimers_draws⟩

/-- Settles O53: the two timers, each by itself, and the frame. -/
theorem tickLowersEachNonzeroTimer : Obligations.TickLowersEachNonzeroTimer := fun s =>
  ⟨s.tickTimers, rfl, tickByte_toNat_eq_ite s.dt, tickByte_toNat_eq_ite s.st, s.tickTimers_frame⟩

/-! ## The timers along a run (R264) -/

/-- Other than by a tick, an operation changes a timer only where `WritesDelay` or `WritesSound` says so. -/
theorem operate_timers {op : Operation} (htick : op ≠ .tickTimers) (s : State) :
    ((operate op s).1.dt = s.dt ∨ WritesDelay op s) ∧ ((operate op s).1.st = s.st ∨ WritesSound op s) := by
  rcases operate_cases op s with
    hsame | ⟨bytes, -, -, hload⟩ | ⟨hop, hstep⟩ | ⟨hop, -⟩ | ⟨k, p, -, hkey⟩ | ⟨hop, -⟩
  · rw [hsame]
    exact ⟨.inl rfl, .inl rfl⟩
  · obtain ⟨m, hm⟩ := State.writeBytes_mem_only bytes s 0x200
    rw [hload, hm]
    exact ⟨.inl rfl, .inl rfl⟩
  · obtain ⟨hdt, hst⟩ := stepNeverTicksATimer s _ hstep
    exact ⟨hdt.imp_right fun ⟨x, hd, _⟩ => .inr ⟨hop, x, hd⟩, hst.imp_right fun ⟨x, hd, _⟩ => .inr ⟨hop, x, hd⟩⟩
  · exact absurd hop htick
  · rw [hkey]
    exact ⟨.inl rfl, .inl rfl⟩
  · exact ⟨.inr (.inl hop), .inr (.inl hop)⟩

theorem operate_dt {op : Operation} (htick : op ≠ .tickTimers) (hwrite : ¬ WritesDelay op s) :
    (operate op s).1.dt = s.dt := (operate_timers htick s).1.resolve_right hwrite

theorem operate_st {op : Operation} (htick : op ≠ .tickTimers) (hwrite : ¬ WritesSound op s) :
    (operate op s).1.st = s.st := (operate_timers htick s).2.resolve_right hwrite

theorem tickCount_cons_tick (ops : List Operation) : tickCount (.tickTimers :: ops) = tickCount ops + 1 :=
  List.count_cons_self

theorem tickCount_cons_other {op : Operation} (h : op ≠ .tickTimers) (ops : List Operation) :
    tickCount (op :: ops) = tickCount ops := List.count_cons_of_ne h

/-- Said once for both timers: a field that a tick lowers, and that otherwise changes only where `Writes` says so, is after
a run without such a write lower by the number of ticks. -/
theorem runOps_timer {timer : State → Byte} {Writes : Operation → State → Prop}
    (htick : ∀ s, timer s.tickTimers = tickByte (timer s))
    (hkeep : ∀ {op s}, op ≠ .tickTimers → ¬ Writes op s → timer (operate op s).1 = timer s) :
    ∀ (ops : List Operation) (s : State), NeverAlong Writes ops s →
      (timer (runOps ops s)).toNat = (timer s).toNat - tickCount ops
  | [], _, _ => rfl
  | op :: rest, s, ⟨hwrite, hrest⟩ => by
    rw [runOps_cons, runOps_timer htick hkeep rest _ hrest]
    by_cases hop : op = .tickTimers
    · subst hop
      rw [operate, htick, tickByte_toNat, tickCount_cons_tick, Nat.sub_sub, Nat.add_comm 1]
    · rw [hkeep hop hwrite, tickCount_cons_other hop]

/-- Settles O54: a tick lowers both timers, and every other operation that writes one is excluded. -/
theorem timerAfterTicks : Obligations.TimerAfterTicks := fun ops s =>
  ⟨runOps_timer State.tickTimers_dt operate_dt ops s, runOps_timer State.tickTimers_st operate_st ops s⟩

/-! ## `Reset` (R291) -/

/-- Settles O60: `Reset` goes to the power-on state of the same core, and its parameters and count of draws stay. -/
theorem resetReestablishesPowerOn : Obligations.ResetReestablishesPowerOn := fun s =>
  ⟨s.resetAgain, rfl, State.powerOn_values s.cfg s.draws, s.resetAgain_cfg, State.powerOn_draws s.cfg s.draws⟩

end Sys2Proof.Machine
end
